-- ==== Sys2Proof/Word.lean ====
section
/-! DEFINITION. The value types of 00_scope.md R10: bytes, words and byte buffers. -/

namespace Sys2Proof

/-- A byte, 8 bits (R10). -/
abbrev Byte := BitVec 8

/-- A word, 32 bits (R10): an instruction word of a packet, or a Memory word. -/
abbrev Word := BitVec 32

/-- A byte buffer of any length; its first byte is first on the wire and lowest addressed (R10). -/
abbrev Bytes := List Byte

end Sys2Proof
end

