-- ==== Sys2Proof/Config.lean ====
section
/-! DEFINITION. What an instance or an implementation of the block fixes (00_scope.md R8). -/

namespace Sys2Proof

/-- MEM_SIZE of the instance that `State.reset` is.
DESIGN CHOICE (log 4): the spec leaves it open and names the instances (2048, 1024) and (2048, 2047). -/
def Config.memSize : Nat := 2048

/-- READ_BOUND of the instance that `State.reset` is. DESIGN CHOICE (log 4). -/
def Config.readBound : Nat := 1024

/-- The values of the open parameter REGSTORE_MINUS_ONE (92_eei_decisions.md D8). -/
inductive Config.MinusOne where
  /-- The register value -1, whose conversion is `2^32`, makes `make_reg_store` fail. -/
  | fault
  /-- That value is placed as the word 0. -/
  | wrapToZero
  deriving DecidableEq, Repr

/-- REGSTORE_MINUS_ONE at the default the spec gives it, `fault` (D8; log 7). -/
def Config.regstoreMinusOne : Config.MinusOne := .fault

/-- PKT_BYTES, the length of a packet on the wire (R8, R65). -/
def Config.packetBytes : Nat := 20

end Sys2Proof
end

