-- ==== Sys2Proof/Syntax.lean ====
section
/-! DEFINITION. The operations and packet kinds of spec/opcode_table.json, and what the host presents to the block. -/

namespace Sys2Proof

/-- The fifteen assigned message codes by name (00_scope.md R18, 30_encoding.md R75). -/
inductive MessageCode where
  | hello | helloReply
  | regSend0 | regSend1 | regSend2 | regSend3
  | insts | instsReply | terminateReg0
  | regStore0 | regStore1 | regStore2 | regStore3
  | loadReply | ack
  deriving DecidableEq, Repr

/-- A Packet: nine fields of exactly these widths, 160 bits (00_scope.md R13). -/
structure Packet where
  version : BitVec 2
  messageCode : BitVec 6
  flags : BitVec 4
  aSeqNum : BitVec 4
  checksum : BitVec 16
  instruction1 : Word
  instruction2 : Word
  instruction3 : Word
  instruction4 : Word
  deriving DecidableEq, Repr

/-- The eight fields of a packet that its kind does not fix: all but the message code (45_message_codes.md R160). -/
structure PacketBody where
  version : BitVec 2
  flags : BitVec 4
  aSeqNum : BitVec 4
  checksum : BitVec 16
  instruction1 : Word
  instruction2 : Word
  instruction3 : Word
  instruction4 : Word
  deriving DecidableEq, Repr

/-- An operand value as the host presents it (30_encoding.md R79, R82): an integer, a list of integers, a byte buffer
or a Packet. -/
inductive Operand where
  | int (v : Int)
  | ints (vs : List Int)
  | bytes (b : Bytes)
  | packet (p : Packet)
  deriving DecidableEq, Repr

/-- What the host presents to the block (R4, R223): an operation selector with its operand values (format OP, R79), or a
buffer received from the wire (format PKT, R65, R203; log 3). -/
inductive Request where
  | op (selector : BitVec 5) (operands : List Operand)
  | wire (b : Bytes)
  deriving DecidableEq, Repr

/-- One constructor per row of spec/opcode_table.json: the 23 operations with the operands of 30_encoding.md R79, and the
15 packet kinds of 45_message_codes.md. `addr`, `value` and the values of `makeRegStore` are mathematical integers (R42,
R127). -/
inductive Instr where
  | checksum (b : Bytes)
  | encode (p : Packet)
  | decode (b : Bytes)
  | setChecksum (p : Packet)
  | verifyChecksum (p : Packet)
  | isHello (p : Packet)
  | hasAck (p : Packet)
  | hasStore (p : Packet)
  | hasPc (p : Packet)
  | makeHello
  | makeHelloReply
  | makeRegSend (index : BitVec 2) (r0 r1 r2 r3 : Word)
  | makeRegStore (index : BitVec 2) (v0 v1 v2 v3 : Int)
  | registerPacket (p : Packet) (regno : BitVec 2) (r0 r1 r2 r3 : Word)
  | makeInstructionPacket (i1 i2 i3 i4 : Word)
  | makePcPacket (pc : Word)
  | makeAckPacket
  | getByte (addr : Int)
  | getWord (addr : Int)
  | storeByte (addr value : Int)
  | storeWord (addr value : Int)
  | closeSetup
  | dump
  | pktHello (body : PacketBody)
  | pktHelloReply (body : PacketBody)
  | pktRegSend0 (body : PacketBody)
  | pktRegSend1 (body : PacketBody)
  | pktRegSend2 (body : PacketBody)
  | pktRegSend3 (body : PacketBody)
  | pktInsts (body : PacketBody)
  | pktInstsReply (body : PacketBody)
  | pktTerminateReg0 (body : PacketBody)
  | pktRegStore0 (body : PacketBody)
  | pktRegStore1 (body : PacketBody)
  | pktRegStore2 (body : PacketBody)
  | pktRegStore3 (body : PacketBody)
  | pktLoadReply (body : PacketBody)
  | pktAck (body : PacketBody)
  deriving DecidableEq, Repr

end Sys2Proof
end

