-- ==== Sys2Proof/WellFormed.lean ====
section
/-! DEFINITION. Which operand values lie in the ports of 30_encoding.md R79. Every other port is the type of the
constructor's argument, so the one check left is the domain of `make_reg_store`'s values. -/

namespace Sys2Proof

/-- The operand domain of a register value of `make_reg_store`, `-2^32 .. 2^32 - 1` (00_scope.md R8, 43_constructors.md
R126). A value outside it still has its outcome (R127). -/
def regStoreValueOk (v : Int) : Bool :=
  decide (-4294967296 ≤ v ∧ v ≤ 4294967295)

/-- Every operand of the instruction lies in its port (R79). -/
def Instr.wf : Instr → Bool
  | .makeRegStore _ v0 v1 v2 v3 =>
      regStoreValueOk v0 && regStoreValueOk v1 && regStoreValueOk v2 && regStoreValueOk v3
  | .checksum _ | .encode _ | .decode _ | .setChecksum _ | .verifyChecksum _ => true
  | .isHello _ | .hasAck _ | .hasStore _ | .hasPc _ => true
  | .makeHello | .makeHelloReply | .makeRegSend .. | .registerPacket .. => true
  | .makeInstructionPacket .. | .makePcPacket _ | .makeAckPacket => true
  | .getByte _ | .getWord _ | .storeByte .. | .storeWord .. | .closeSetup | .dump => true
  | .pktHello _ | .pktHelloReply _ | .pktRegSend0 _ | .pktRegSend1 _ | .pktRegSend2 _ => true
  | .pktRegSend3 _ | .pktInsts _ | .pktInstsReply _ | .pktTerminateReg0 _ | .pktRegStore0 _ => true
  | .pktRegStore1 _ | .pktRegStore2 _ | .pktRegStore3 _ | .pktLoadReply _ | .pktAck _ => true

end Sys2Proof
end

