-- ==== Sys2Proof/Decode.lean ====
section
/-! DEFINITION. The two encodings of 30_encoding.md: the wire packet (format PKT) and the operation selector with its
operand values (format OP). The decoder first, the encoder after it, and the reading of an opcode-table word. -/

namespace Sys2Proof

/-! ### Big-endian helpers (00_scope.md R12) -/

/-- The byte of a buffer at an offset; the rules use it only below the buffer's length. -/
def byteAt (b : Bytes) (i : Nat) : Byte := b.getD i 0

/-- BE16 of two bytes (R12). -/
def be16 (hi lo : Byte) : BitVec 16 := hi ++ lo

/-- BE32 of four bytes (R12). -/
def be32 (b0 b1 b2 b3 : Byte) : Word := b0 ++ b1 ++ b2 ++ b3

/-- `BE16(b, i)` (R12). -/
def be16At (b : Bytes) (i : Nat) : BitVec 16 := be16 (byteAt b i) (byteAt b (i + 1))

/-- `BE32(b, i)` (R12). -/
def be32At (b : Bytes) (i : Nat) : Word :=
  be32 (byteAt b i) (byteAt b (i + 1)) (byteAt b (i + 2)) (byteAt b (i + 3))

/-- `bytes16` (R12). -/
def bytes16 (v : BitVec 16) : Bytes := [v.extractLsb' 8 8, v.extractLsb' 0 8]

/-- `bytes32` (R12). -/
def bytes32 (v : Word) : Bytes :=
  [v.extractLsb' 24 8, v.extractLsb' 16 8, v.extractLsb' 8 8, v.extractLsb' 0 8]

/-! ### The wire packet (R65, R66, R100) -/

/-- The header word `H`: version, message code, flags, sequence number, the first listed in the most significant bits.
UNVERIFIED (log 5): the positions are the spec's decision D3 (R66). -/
def headerWord (p : Packet) : BitVec 16 := p.version ++ p.messageCode ++ p.flags ++ p.aSeqNum

/-- `pack` (41_codec.md R100). -/
def pack (p : Packet) : Bytes :=
  bytes16 (headerWord p) ++ bytes16 p.checksum ++ bytes32 p.instruction1 ++ bytes32 p.instruction2
    ++ bytes32 p.instruction3 ++ bytes32 p.instruction4

/-- `unpack` of a 20-byte buffer (41_codec.md R100). -/
def unpack (b : Bytes) : Packet :=
  let h := be16At b 0
  { version := h.extractLsb' 14 2
    messageCode := h.extractLsb' 8 6
    flags := h.extractLsb' 4 4
    aSeqNum := h.extractLsb' 0 4
    checksum := be16At b 2
    instruction1 := be32At b 4
    instruction2 := be32At b 8
    instruction3 := be32At b 12
    instruction4 := be32At b 16 }

/-! ### The packet as one 160-bit number (R73) -/

/-- The number `W` of a packet: its fields from bit 159 down, as 30_encoding.md R73 lists them. -/
def packetNumber (p : Packet) : BitVec 160 :=
  p.version ++ p.messageCode ++ p.flags ++ p.aSeqNum ++ p.checksum ++ p.instruction1 ++ p.instruction2
    ++ p.instruction3 ++ p.instruction4

/-- The 20 bytes of a number `W`: bit 159 is bit 7 of byte 0, and `W = b[0] ‖ ... ‖ b[19]` (R73). -/
def numberBytes (w : BitVec 160) : Bytes := (List.range 20).map fun i => w.extractLsb' (8 * (19 - i)) 8

/-- The value of each named message code (00_scope.md R18, 30_encoding.md R75). -/
def MessageCode.value : MessageCode → BitVec 6
  | .hello => 1
  | .helloReply => 2
  | .regSend0 => 4
  | .regSend1 => 5
  | .regSend2 => 6
  | .regSend3 => 7
  | .insts => 8
  | .instsReply => 9
  | .terminateReg0 => 10
  | .regStore0 => 12
  | .regStore1 => 13
  | .regStore2 => 14
  | .regStore3 => 15
  | .loadReply => 16
  | .ack => 31

/-- The name of a 6-bit code, none for the 49 unassigned ones (R75, R76). -/
def MessageCode.ofValue? (c : BitVec 6) : Option MessageCode :=
  match c.toNat with
  | 1 => some .hello
  | 2 => some .helloReply
  | 4 => some .regSend0
  | 5 => some .regSend1
  | 6 => some .regSend2
  | 7 => some .regSend3
  | 8 => some .insts
  | 9 => some .instsReply
  | 10 => some .terminateReg0
  | 12 => some .regStore0
  | 13 => some .regStore1
  | 14 => some .regStore2
  | 15 => some .regStore3
  | 16 => some .loadReply
  | 31 => some .ack
  | _ => none

/-- The packet of a kind with the given other fields (R160). -/
def PacketBody.toPacket (f : PacketBody) (k : MessageCode) : Packet :=
  { version := f.version
    messageCode := k.value
    flags := f.flags
    aSeqNum := f.aSeqNum
    checksum := f.checksum
    instruction1 := f.instruction1
    instruction2 := f.instruction2
    instruction3 := f.instruction3
    instruction4 := f.instruction4 }

/-- The fields of a packet besides its message code. -/
def Packet.body (p : Packet) : PacketBody :=
  { version := p.version
    flags := p.flags
    aSeqNum := p.aSeqNum
    checksum := p.checksum
    instruction1 := p.instruction1
    instruction2 := p.instruction2
    instruction3 := p.instruction3
    instruction4 := p.instruction4 }

/-- The PKT row that a message code selects (45_message_codes.md R161-R175). -/
def MessageCode.toInstr (k : MessageCode) (f : PacketBody) : Instr :=
  match k with
  | .hello => .pktHello f
  | .helloReply => .pktHelloReply f
  | .regSend0 => .pktRegSend0 f
  | .regSend1 => .pktRegSend1 f
  | .regSend2 => .pktRegSend2 f
  | .regSend3 => .pktRegSend3 f
  | .insts => .pktInsts f
  | .instsReply => .pktInstsReply f
  | .terminateReg0 => .pktTerminateReg0 f
  | .regStore0 => .pktRegStore0 f
  | .regStore1 => .pktRegStore1 f
  | .regStore2 => .pktRegStore2 f
  | .regStore3 => .pktRegStore3 f
  | .loadReply => .pktLoadReply f
  | .ack => .pktAck f

/-! ### Decoding a request -/

/-- Why a request is no operation: all four are IllegalOperation (60_exceptions.md R185). -/
inductive Reject where
  /-- One of the nine reserved selectors (R80). -/
  | reservedSelector
  /-- The operands are not of the number and types of R79. -/
  | operandTypes
  /-- `index` or `regno` outside `0..3`, or a register list that is not four long (R81). -/
  | registerGroup
  /-- A verbatim word outside `0 .. 2^32 - 1` (R81). -/
  | wordRange
  deriving DecidableEq, Repr

/-- A 2-bit port: `index` and `regno` (R81). -/
def portU2 (v : Int) : Except Reject (BitVec 2) :=
  if 0 ≤ v ∧ v ≤ 3 then .ok (BitVec.ofNat 2 v.toNat) else .error .registerGroup

/-- A 32-bit port of a verbatim word (R81). -/
def portU32 (v : Int) : Except Reject Word :=
  if 0 ≤ v ∧ v ≤ 4294967295 then .ok (BitVec.ofNat 32 v.toNat) else .error .wordRange

/-- Four 32-bit ports. -/
def fourWords (f : Word → Word → Word → Word → Instr) (a b c d : Int) : Except Reject Instr :=
  match portU32 a, portU32 b, portU32 c, portU32 d with
  | .ok a, .ok b, .ok c, .ok d => .ok (f a b c d)
  | _, _, _, _ => .error .wordRange

/-- No operands. -/
def noArgs (i : Instr) : List Operand → Except Reject Instr
  | [] => .ok i
  | _ => .error .operandTypes

/-- One Bytes operand. -/
def bytesArg (f : Bytes → Instr) : List Operand → Except Reject Instr
  | [.bytes b] => .ok (f b)
  | _ => .error .operandTypes

/-- One Packet operand. -/
def packetArg (f : Packet → Instr) : List Operand → Except Reject Instr
  | [.packet p] => .ok (f p)
  | _ => .error .operandTypes

/-- One Int operand. -/
def intArg (f : Int → Instr) : List Operand → Except Reject Instr
  | [.int a] => .ok (f a)
  | _ => .error .operandTypes

/-- Two Int operands. -/
def intIntArgs (f : Int → Int → Instr) : List Operand → Except Reject Instr
  | [.int a, .int v] => .ok (f a v)
  | _ => .error .operandTypes

/-- One verbatim word. -/
def wordArg (f : Word → Instr) : List Operand → Except Reject Instr
  | [.int a] => (portU32 a).map f
  | _ => .error .operandTypes

/-- Four verbatim words. -/
def wordsArgs (f : Word → Word → Word → Word → Instr) : List Operand → Except Reject Instr
  | [.int a, .int b, .int c, .int d] => fourWords f a b c d
  | _ => .error .operandTypes

/-- `make_reg_send`: an index and a list of exactly four verbatim words (R124). -/
def regSendArgs : List Operand → Except Reject Instr
  | [.int i, .ints [a, b, c, d]] =>
      match portU2 i with
      | .ok i => fourWords (.makeRegSend i) a b c d
      | .error e => .error e
  | [.int _, .ints _] => .error .registerGroup
  | _ => .error .operandTypes

/-- `make_reg_store`: an index and a list of exactly four integers (R126, R127). -/
def regStoreArgs : List Operand → Except Reject Instr
  | [.int i, .ints [a, b, c, d]] => (portU2 i).map fun i => .makeRegStore i a b c d
  | [.int _, .ints _] => .error .registerGroup
  | _ => .error .operandTypes

/-- `register_packet`: a Packet, a register group and four verbatim words (R128). -/
def registerPacketArgs : List Operand → Except Reject Instr
  | [.packet p, .int n, .int a, .int b, .int c, .int d] =>
      match portU2 n with
      | .ok n => fourWords (.registerPacket p n) a b c d
      | .error e => .error e
  | _ => .error .operandTypes

/-- The operation a selector and its operands name (30_encoding.md R79, R80). -/
def decodeOp (selector : BitVec 5) (args : List Operand) : Except Reject Instr :=
  match selector.toNat with
  | 0x01 => bytesArg .checksum args
  | 0x02 => packetArg .encode args
  | 0x03 => bytesArg .decode args
  | 0x04 => packetArg .setChecksum args
  | 0x05 => packetArg .verifyChecksum args
  | 0x08 => packetArg .isHello args
  | 0x09 => packetArg .hasAck args
  | 0x0A => packetArg .hasStore args
  | 0x0B => packetArg .hasPc args
  | 0x10 => noArgs .makeHello args
  | 0x11 => noArgs .makeHelloReply args
  | 0x12 => regSendArgs args
  | 0x13 => regStoreArgs args
  | 0x14 => registerPacketArgs args
  | 0x15 => wordsArgs .makeInstructionPacket args
  | 0x16 => wordArg .makePcPacket args
  | 0x17 => noArgs .makeAckPacket args
  | 0x18 => intArg .getByte args
  | 0x19 => intArg .getWord args
  | 0x1A => intIntArgs .storeByte args
  | 0x1B => intIntArgs .storeWord args
  | 0x1C => noArgs .closeSetup args
  | 0x1D => noArgs .dump args
  | _ => .error .reservedSelector

/-- What a buffer from the wire asks for: a 20-byte packet with an assigned code is a packet of that kind (R160); any
other buffer is the operand of `decode`, which carries an unassigned code unchanged (R76) and answers MalformedPacket for
any other length (R78, R102). DESIGN CHOICE (log 3). -/
def decodeWire (b : Bytes) : Instr :=
  if b.length = Config.packetBytes then
    match MessageCode.ofValue? (unpack b).messageCode with
    | some k => k.toInstr (unpack b).body
    | none => .decode b
  else .decode b

/-- The decoder, total on every request. -/
def decode : Request → Except Reject Instr
  | .op selector args => decodeOp selector args
  | .wire b => .ok (decodeWire b)

/-- What a packet given as its number `W` asks for (R73). -/
def decodeNumber (w : BitVec 160) : Except Reject Instr := decode (.wire (numberBytes w))

/-! ### Encoding an instruction -/

/-- A word as an integer operand. -/
def Operand.word (w : Word) : Operand := .int w.toNat

/-- A packet kind on the wire. -/
def encodeKind (k : MessageCode) (f : PacketBody) : Request := .wire (pack (f.toPacket k))

/-- The request that presents an instruction: its selector and operand values (R79), or its 20 bytes (R65). -/
def encode : Instr → Request
  | .checksum b => .op 0x01 [.bytes b]
  | .encode p => .op 0x02 [.packet p]
  | .decode b => .op 0x03 [.bytes b]
  | .setChecksum p => .op 0x04 [.packet p]
  | .verifyChecksum p => .op 0x05 [.packet p]
  | .isHello p => .op 0x08 [.packet p]
  | .hasAck p => .op 0x09 [.packet p]
  | .hasStore p => .op 0x0A [.packet p]
  | .hasPc p => .op 0x0B [.packet p]
  | .makeHello => .op 0x10 []
  | .makeHelloReply => .op 0x11 []
  | .makeRegSend i a b c d => .op 0x12 [.int i.toNat, .ints [a.toNat, b.toNat, c.toNat, d.toNat]]
  | .makeRegStore i a b c d => .op 0x13 [.int i.toNat, .ints [a, b, c, d]]
  | .registerPacket p n a b c d => .op 0x14 [.packet p, .int n.toNat, .word a, .word b, .word c, .word d]
  | .makeInstructionPacket a b c d => .op 0x15 [.word a, .word b, .word c, .word d]
  | .makePcPacket pc => .op 0x16 [.word pc]
  | .makeAckPacket => .op 0x17 []
  | .getByte a => .op 0x18 [.int a]
  | .getWord a => .op 0x19 [.int a]
  | .storeByte a v => .op 0x1A [.int a, .int v]
  | .storeWord a v => .op 0x1B [.int a, .int v]
  | .closeSetup => .op 0x1C []
  | .dump => .op 0x1D []
  | .pktHello f => encodeKind .hello f
  | .pktHelloReply f => encodeKind .helloReply f
  | .pktRegSend0 f => encodeKind .regSend0 f
  | .pktRegSend1 f => encodeKind .regSend1 f
  | .pktRegSend2 f => encodeKind .regSend2 f
  | .pktRegSend3 f => encodeKind .regSend3 f
  | .pktInsts f => encodeKind .insts f
  | .pktInstsReply f => encodeKind .instsReply f
  | .pktTerminateReg0 f => encodeKind .terminateReg0 f
  | .pktRegStore0 f => encodeKind .regStore0 f
  | .pktRegStore1 f => encodeKind .regStore1 f
  | .pktRegStore2 f => encodeKind .regStore2 f
  | .pktRegStore3 f => encodeKind .regStore3 f
  | .pktLoadReply f => encodeKind .loadReply f
  | .pktAck f => encodeKind .ack f

/-! ### Words of the opcode table (log 15) -/

/-- The Packet whose 160 bits are 0. -/
def zeroPacket : Packet := unpack []

/-- The operands of an operation with every value zero or empty: the operand words of an opcode-table word, which gives
only the selector. -/
def zeroOperands (selector : BitVec 5) : List Operand :=
  match selector.toNat with
  | 0x01 | 0x03 => [.bytes []]
  | 0x02 | 0x04 | 0x05 | 0x08 | 0x09 | 0x0A | 0x0B => [.packet zeroPacket]
  | 0x12 | 0x13 => [.int 0, .ints [0, 0, 0, 0]]
  | 0x14 => [.packet zeroPacket, .int 0, .int 0, .int 0, .int 0, .int 0]
  | 0x15 => [.int 0, .int 0, .int 0, .int 0]
  | 0x16 | 0x18 | 0x19 => [.int 0]
  | 0x1A | 0x1B => [.int 0, .int 0]
  | _ => []

/-- The 20 bytes of a PKT row's word. This is not the number `W` of R73, which `decodeNumber` reads: the bit numbers that the
opcode table gives a PKT row (`match`, `mask` and `fixed` 13..8) count within the header word `H`, so a row's word has `H`
in bits 15..0 and the later 16-bit words of the buffer above it, each stored most significant byte first (R65; log 15). -/
def tableBytes (w : Nat) : Bytes :=
  (List.range 10).flatMap fun k => bytes16 (BitVec.ofNat 16 (w >>> (16 * k)))

/-- The request an opcode-table word stands for: a row of at most 8 bits is an OP row whose selector is bits 4..0, a
longer one a PKT row. -/
def tableRequest (nbits w : Nat) : Request :=
  if nbits ≤ 8 then .op (BitVec.ofNat 5 w) (zeroOperands (BitVec.ofNat 5 w)) else .wire (tableBytes w)

/-- What the decoder reads from an opcode-table word. -/
def decodeTableWord (nbits w : Nat) : Option Instr :=
  match decode (tableRequest nbits w) with
  | .ok i => some i
  | .error _ => none

end Sys2Proof
end

