-- ==== Sys2Proof/Machine/State.lean ====
section
/-! DEFINITION. The state of the block (10_state.md R23, R34), the outcomes of its operations (00_scope.md R16) and the
reasons a step can stop. -/

namespace Sys2Proof.Machine

/-- The error kinds an operation can end in (60_exceptions.md R180-R184). They are results of a step, not stops (R193).
The fifth kind, IllegalOperation, is a refusal: `Refusal.illegalOperation`. -/
inductive ErrorKind where
  | addressOutOfRange
  | valueOutOfRange
  | malformedPacket
  | fieldOverflow
  deriving DecidableEq, Repr

/-- The result of a successful operation, by its type in 30_encoding.md R79. -/
inductive Result where
  | unit
  | u8 (v : Byte)
  | u16 (v : BitVec 16)
  | u32 (v : Word)
  | bool (v : Bool)
  | bytes (b : Bytes)
  | packet (p : Packet)
  | runs (l : List (Nat × Bytes))
  deriving DecidableEq, Repr

/-- The outcome of an operation (00_scope.md R16). -/
inductive Response where
  | ok (r : Result)
  | error (k : ErrorKind)
  deriving DecidableEq, Repr

/-- The block has no fault that stops it: an error is the outcome of the operation that met it and the next operation
proceeds (60_exceptions.md R190-R193; log 21). Nobody raises one, so this is safe. -/
inductive Fault where
  deriving DecidableEq, Repr

/-- Requests without a meaning. -/
inductive Refusal where
  /-- Raised by `exec` for an instruction the model does not have yet; no arm raises it. Safe: the run stops. -/
  | notModelled (mnemonic : String)
  /-- Raised by `step` for a reserved selector or an operand outside its port (60_exceptions.md R185, R193; log 12).
  Safe: the run stops where the spec gives the request no meaning. -/
  | illegalOperation
  /-- Raised by `State.create` for parameters that are not `MEM_SIZE > READ_BOUND ≥ 0` (70_reset_and_hazards.md R210;
  log 13). Safe: no state results. -/
  | illegalCreation
  deriving DecidableEq, Repr

/-- The cells of the byte buffer that differ from 0, as (address, byte) pairs in rising address order. An address that is
not listed holds 0 (10_state.md R27; log 20). -/
abbrev Memory := List Host.Cell

/-- The state of the block: the four elements of the Memory (10_state.md R23), and two fields of the model's own that
stand for the host (log 1, log 2). -/
structure State where
  /-- `M.size` (R24). -/
  size : Nat
  /-- `M.readBound` (R25). -/
  readBound : Nat
  /-- `M.setup`, true in SETUP and false in OPERATIONAL (R26). -/
  setup : Bool
  /-- `M.bytes` (R27). -/
  bytes : Memory
  /-- The requests the host has still to present, first one first. The model's own field (log 1). -/
  requests : List Request
  /-- The outcome of the last operation, as the host received it. The model's own field; no operation reads it
  (60_exceptions.md R191; log 2). -/
  outcome : Option Response
  deriving DecidableEq, Repr

/-- The machine right after reset (10_state.md R34) with the parameters of `Config` (log 4): SETUP, every byte 0, and the
host has presented nothing. -/
def State.reset : State :=
  { size := Config.memSize
    readBound := Config.readBound
    setup := true
    bytes := []
    requests := []
    outcome := none }

end Sys2Proof.Machine
end

