-- ==== Sys2Proof/Machine/Ops.lean ====
section
/-! DEFINITION. The named operations over the byte buffer and the state: memory primitives, the two checks of an access,
ending an operation with a result or an error, creation, and fetching the host's next request. -/

namespace Sys2Proof.Machine

/-! ### The byte buffer -/

/-- The byte at an address; an address that is not listed holds 0 (10_state.md R27). -/
def Memory.read : Memory → Nat → Byte
  | [], _ => 0
  | (k, v) :: rest, a => if k = a then v else Memory.read rest a

/-- The buffer with no cell listed for an address. -/
def Memory.erase (m : Memory) (a : Nat) : Memory := m.filter fun c => c.1 != a

/-- The cell put at its place in rising address order. -/
def Memory.insert (a : Nat) (v : Byte) : Memory → Memory
  | [] => [(a, v)]
  | (k, w) :: rest => if a < k then (a, v) :: (k, w) :: rest else (k, w) :: Memory.insert a v rest

/-- The buffer after a byte is stored. Storing 0 unlists the cell, so equal buffers are equal data. -/
def Memory.write (m : Memory) (a : Nat) (v : Byte) : Memory :=
  if v = 0 then m.erase a else Memory.insert a v (m.erase a)

/-- Addresses strictly rising from a bound, and no listed byte is 0. -/
def Memory.wfFrom : Nat → Memory → Bool
  | _, [] => true
  | lo, (k, v) :: rest => decide (lo ≤ k) && decide (v ≠ 0) && Memory.wfFrom (k + 1) rest

/-- The canonical form: addresses strictly rising, no listed byte is 0. -/
def Memory.wf (m : Memory) : Bool := Memory.wfFrom 0 m

/-- Bytes stored at consecutive addresses, the first at the lowest. -/
def Memory.writeBytes (m : Memory) (a : Nat) : Bytes → Memory
  | [] => m
  | b :: bs => Memory.writeBytes (m.write a b) (a + 1) bs

/-- `MemRead(addr, 4)`: most significant byte first (00_scope.md R15, 20_memory.md R43). -/
def Memory.readWord (m : Memory) (a : Nat) : Word :=
  be32 (m.read a) (m.read (a + 1)) (m.read (a + 2)) (m.read (a + 3))

/-- `MemWrite(addr, 4, v)`: most significant byte at `addr` (00_scope.md R15, 20_memory.md R43). -/
def Memory.writeWord (m : Memory) (a : Nat) (v : Word) : Memory := m.writeBytes a (bytes32 v)

/-- The maximal runs of non-zero bytes among `n` cells from address `a`, in address order (44_memory_ops.md R145): a
non-zero byte joins the run that starts right after it, or starts its own. -/
def Memory.runs (m : Memory) : Nat → Nat → List (Nat × Bytes)
  | 0, _ => []
  | n + 1, a =>
    let rest := Memory.runs m n (a + 1)
    if m.read a = 0 then rest
    else
      match rest with
      | (start, bs) :: tail =>
        if start = a + 1 then (a, m.read a :: bs) :: tail else (a, [m.read a]) :: rest
      | [] => [(a, [m.read a])]

/-! ### The checks of an access (20_memory.md) -/

/-- `in_range(addr, n)`: exact integer arithmetic, no wrap (R42, R49). -/
abbrev State.InRange (s : State) (addr n : Int) : Prop := 0 ≤ addr ∧ addr + n ≤ (s.size : Int)

/-- `store_allowed(addr, n)`: in range, and in OPERATIONAL mode not starting below the bound (R52, R53). -/
abbrev State.StoreAllowed (s : State) (addr n : Int) : Prop :=
  s.InRange addr n ∧ (s.setup = true ∨ (s.readBound : Int) ≤ addr)

/-! ### Field updates -/

/-- The state after the host received an outcome. -/
def State.setOutcome (s : State) (o : Response) : State := { s with outcome := some o }

/-- The state with another byte buffer. -/
def State.setBytes (s : State) (m : Memory) : State := { s with bytes := m }

/-- The state with another lifecycle bit. -/
def State.setSetup (s : State) (b : Bool) : State := { s with setup := b }

/-- The state with other requests still to present. -/
def State.setRequests (s : State) (r : List Request) : State := { s with requests := r }

/-! ### Ending an operation (00_scope.md R16) -/

/-- `return ok(r)`. -/
def finish (r : Result) (s : State) : Host.Outcome State Fault Refusal := .next (s.setOutcome (.ok r))

/-- `raise k`, the block's one way of taking an error: the error is the outcome, the Memory is as it was, nothing else is
saved or changed, and the next operation proceeds (60_exceptions.md R190, R191). There is nothing to return from (R192). -/
def raise (k : ErrorKind) (s : State) : Host.Outcome State Fault Refusal := .next (s.setOutcome (.error k))

/-- The number of an error kind (60_exceptions.md R180). -/
def ErrorKind.number : ErrorKind → Nat
  | .addressOutOfRange => 1
  | .valueOutOfRange => 2
  | .malformedPacket => 3
  | .fieldOverflow => 4

/-- The number of the error kind that a refusal is, where it is one (60_exceptions.md R180). -/
def Refusal.number? : Refusal → Option Nat
  | .illegalOperation => some 5
  | .illegalCreation => none
  | _ => none

/-! ### Creation and the host's requests -/

/-- Reset is the creation `Memory(MEM_SIZE, READ_BOUND)` (70_reset_and_hazards.md R210); parameters that are not
`MEM_SIZE > READ_BOUND ≥ 0` give no state (log 13). -/
def State.create (memSize readBound : Int) : Host.Outcome State Fault Refusal :=
  if 0 ≤ readBound ∧ readBound < memSize then
    .next
      { size := memSize.toNat
        readBound := readBound.toNat
        setup := true
        bytes := []
        requests := []
        outcome := none }
  else .refused .illegalCreation

/-- The host's next request, taken from the list (00_scope.md R4; log 1). -/
def State.fetch? (s : State) : Option (Request × State) :=
  match s.requests with
  | [] => none
  | r :: rest => some (r, s.setRequests rest)

/-- The state in which the host presents a request before the ones it had. -/
def State.present (s : State) (r : Request) : State := s.setRequests (r :: s.requests)

end Sys2Proof.Machine
end

