-- ==== Sys2Proof/Machine/Checksum.lean ====
section
/-! DEFINITION. The checksum family (40_checksum.md): the ones-complement sum and the operation `checksum`. -/

namespace Sys2Proof.Machine

/-- `fold16` (00_scope.md R17). -/
def fold16 (s : Nat) : Nat := (s &&& 0xFFFF) + (s >>> 16)

/-- The running sum over a buffer, from a sum already accumulated: big-endian words, one fold after each addition, and an
odd last byte added as the high byte of a word (40_checksum.md R91, R92 steps 1 to 3). -/
def runningSum : Nat → Bytes → Nat
  | sum, b0 :: b1 :: rest => runningSum (fold16 (sum + (be16 b0 b1).toNat)) rest
  | sum, [b0] => sum + (b0.toNat <<< 8)
  | sum, [] => sum

/-- The checksum of a buffer of any length (R92; steps 4 and 5). -/
def checksumOf (b : Bytes) : BitVec 16 :=
  BitVec.ofNat 16 (0xFFFF - (fold16 (runningSum 0 b) &&& 0xFFFF))

/-- `checksum(b)` (R92). -/
def execChecksum (b : Bytes) (s : State) : Host.Outcome State Fault Refusal := finish (.u16 (checksumOf b)) s

end Sys2Proof.Machine
end

