-- ==== Sys2Proof/Machine/Codec.lean ====
section
/-! DEFINITION. The codec family (41_codec.md). -/

namespace Sys2Proof.Machine

/-- The checksum of a packet with its checksum field zeroed, over all 20 bytes (41_codec.md R103). -/
def packetChecksum (p : Packet) : BitVec 16 := checksumOf (pack { p with checksum := 0 })

/-- The packet with its checksum field set (R103). -/
def withChecksum (p : Packet) : Packet := { p with checksum := packetChecksum p }

/-- `encode(P)` (R101): the checksum field goes out as stored. -/
def execEncode (p : Packet) (s : State) : Host.Outcome State Fault Refusal := finish (.bytes (pack p)) s

/-- `decode(b)` (R102): the length is the only check. -/
def execDecode (b : Bytes) (s : State) : Host.Outcome State Fault Refusal :=
  if b.length = Config.packetBytes then finish (.packet (unpack b)) s else raise .malformedPacket s

/-- `set_checksum(P)` (R103). -/
def execSetChecksum (p : Packet) (s : State) : Host.Outcome State Fault Refusal :=
  finish (.packet (withChecksum p)) s

/-- `verify_checksum(P)` (R104): the recomputed value is compared with the stored one; a mismatch is no error. -/
def execVerifyChecksum (p : Packet) (s : State) : Host.Outcome State Fault Refusal :=
  finish (.bool (decide (packetChecksum p = p.checksum))) s

end Sys2Proof.Machine
end

