-- ==== Sys2Proof/Machine/Flags.lean ====
section
/-! DEFINITION. The block has no status flags (10_state.md R22). The flag-like bits of the spec are packet fields: the
header `flags` a producer sets, the version it sets, and the two bits of the status word. -/

namespace Sys2Proof.Machine

/-- PROTOCOL_VERSION, the version of every packet built (00_scope.md R8, 30_encoding.md R67). -/
def protocolVersion : BitVec 2 := 0

/-- PRODUCER_FLAGS, `0b0001`, the flags of every packet built (00_scope.md R8, 30_encoding.md R69). -/
def producerFlags : BitVec 4 := 1

/-- The sequence number of a fresh packet (43_constructors.md R120). UNVERIFIED (log 6): the spec's decision D5. -/
def freshSeqNum : BitVec 4 := 0

/-- The ack bit of a status word, bit 0 (45_message_codes.md R176, 42_predicates.md R112). -/
def ackBit (w : Word) : Bool := w.getLsbD 0

/-- The store bit of a status word, bit 1 (45_message_codes.md R176, 42_predicates.md R113). -/
def storeBit (w : Word) : Bool := w.getLsbD 1

end Sys2Proof.Machine
end

