-- ==== Sys2Proof/Machine/Operands.lean ====
section
/-! DEFINITION. The operand forms that need a computation of their own: value ranges of the stores, the register-store
conversion and its placement in a 32-bit field, and the code of a register group. The typed ports (R79, R81) are checked
by the decoder. -/

namespace Sys2Proof.Machine

/-- A value that `store_byte` accepts (44_memory_ops.md R142). -/
abbrev ByteValue (v : Int) : Prop := 0 ≤ v ∧ v ≤ 255

/-- A value that `store_word` accepts (44_memory_ops.md R143), which is also what a 32-bit field holds (30_encoding.md
R72). -/
abbrev WordValue (v : Int) : Prop := 0 ≤ v ∧ v ≤ 4294967295

/-- `regstore_convert` (43_constructors.md R125): exact integer arithmetic, `2^32 + 1 + v` for a negative value. -/
def regstoreConvert (v : Int) : Int := if v < 0 then 4294967296 + 1 + v else v

/-- The word that a converted register value is placed as, none when the 32-bit field cannot hold it (43_constructors.md
R126, R127). `wrapToZero` is the other value of the open parameter REGSTORE_MINUS_ONE (D8; log 7).
DESIGN CHOICE (log 7): under `wrapToZero` the value -1 alone is placed as 0, and every other value that does not fit, 2^32
among them, stays rejected as R127 says; D8 speaks of -1 only. -/
def placeRegister (mode : Config.MinusOne) (v : Int) : Option Word :=
  if WordValue (regstoreConvert v) then some (BitVec.ofNat 32 (regstoreConvert v).toNat)
  else
    match mode with
    | .wrapToZero => if v = -1 then some 0 else none
    | .fault => none

/-- `REG_SEND{i} = 4 + i` (00_scope.md R18). -/
def regSendCode (i : BitVec 2) : BitVec 6 := MessageCode.regSend0.value + i.setWidth 6

/-- `REG_STORE{i} = 12 + i` (00_scope.md R18). -/
def regStoreCode (i : BitVec 2) : BitVec 6 := MessageCode.regStore0.value + i.setWidth 6

end Sys2Proof.Machine
end

