-- ==== Sys2Proof/Machine/Constructors.lean ====
section
/-! DEFINITION. The constructor family (43_constructors.md). -/

namespace Sys2Proof.Machine

/-- `build`, the fresh-packet builder (R120). -/
def build (code : BitVec 6) (w1 w2 w3 w4 : Word) : Packet :=
  withChecksum
    { version := protocolVersion
      messageCode := code
      flags := producerFlags
      aSeqNum := freshSeqNum
      checksum := 0
      instruction1 := w1
      instruction2 := w2
      instruction3 := w3
      instruction4 := w4 }

/-- `make_hello()` (R122). -/
def execMakeHello (s : State) : Host.Outcome State Fault Refusal :=
  finish (.packet (build MessageCode.hello.value 0 0 0 0)) s

/-- `make_hello_reply()` (R123). -/
def execMakeHelloReply (s : State) : Host.Outcome State Fault Refusal :=
  finish (.packet (build MessageCode.helloReply.value 0 0 0 0)) s

/-- `make_reg_send(index, regs)` (R124): the four values verbatim. -/
def execMakeRegSend (index : BitVec 2) (r0 r1 r2 r3 : Word) (s : State) : Host.Outcome State Fault Refusal :=
  finish (.packet (build (regSendCode index) r0 r1 r2 r3)) s

/-- `make_reg_store(index, regs)` (R126, R127): the four values converted; FieldOverflow when one cannot be placed. -/
def execMakeRegStore (index : BitVec 2) (v0 v1 v2 v3 : Int) (s : State) : Host.Outcome State Fault Refusal :=
  match placeRegister Config.regstoreMinusOne v0, placeRegister Config.regstoreMinusOne v1,
      placeRegister Config.regstoreMinusOne v2, placeRegister Config.regstoreMinusOne v3 with
  | some w0, some w1, some w2, some w3 => finish (.packet (build (regStoreCode index) w0 w1 w2 w3)) s
  | _, _, _, _ => raise .fieldOverflow s

/-- `register_packet(P, regno, r0, r1, r2, r3)` (R128): version and sequence number are the receiver's.
UNVERIFIED (log 10): the spec's decision D16. -/
def execRegisterPacket (p : Packet) (regno : BitVec 2) (r0 r1 r2 r3 : Word) (s : State) :
    Host.Outcome State Fault Refusal :=
  finish
    (.packet
      (withChecksum
        { p with
          messageCode := regSendCode regno
          flags := producerFlags
          instruction1 := r0
          instruction2 := r1
          instruction3 := r2
          instruction4 := r3 })) s

/-- `make_instruction_packet(i1, i2, i3, i4)` (R129). -/
def execMakeInstructionPacket (i1 i2 i3 i4 : Word) (s : State) : Host.Outcome State Fault Refusal :=
  finish (.packet (build MessageCode.insts.value i1 i2 i3 i4)) s

/-- `make_pc_packet(pc)` (R130): the marker in the first word, `pc` in the fourth. -/
def execMakePcPacket (pc : Word) (s : State) : Host.Outcome State Fault Refusal :=
  finish (.packet (build MessageCode.instsReply.value 1 0 0 pc)) s

/-- `make_ack_packet()` (R131). -/
def execMakeAckPacket (s : State) : Host.Outcome State Fault Refusal :=
  finish (.packet (build MessageCode.ack.value 0 0 0 0)) s

end Sys2Proof.Machine
end

