-- ==== Sys2Proof/Machine/MemoryOps.lean ====
section
/-! DEFINITION. The memory family (44_memory_ops.md): the only operations that touch the Memory. -/

namespace Sys2Proof.Machine

/-- `get_byte(addr)` (R140): range check only (20_memory.md R51). -/
def execGetByte (addr : Int) (s : State) : Host.Outcome State Fault Refusal :=
  if s.InRange addr 1 then finish (.u8 (s.bytes.read addr.toNat)) s else raise .addressOutOfRange s

/-- `get_word(addr)` (R141): no alignment rule (20_memory.md R46). -/
def execGetWord (addr : Int) (s : State) : Host.Outcome State Fault Refusal :=
  if s.InRange addr 4 then finish (.u32 (s.bytes.readWord addr.toNat)) s else raise .addressOutOfRange s

/-- `store_byte(addr, value)` (R142): address checks first, the value check last (60_exceptions.md R188). -/
def execStoreByte (addr value : Int) (s : State) : Host.Outcome State Fault Refusal :=
  if s.StoreAllowed addr 1 then
    if ByteValue value then
      finish .unit (s.setBytes (s.bytes.write addr.toNat (BitVec.ofNat 8 value.toNat)))
    else raise .valueOutOfRange s
  else raise .addressOutOfRange s

/-- `store_word(addr, value)` (R143): the permission term tests the starting address alone (20_memory.md R53). -/
def execStoreWord (addr value : Int) (s : State) : Host.Outcome State Fault Refusal :=
  if s.StoreAllowed addr 4 then
    if WordValue value then
      finish .unit (s.setBytes (s.bytes.writeWord addr.toNat (BitVec.ofNat 32 value.toNat)))
    else raise .valueOutOfRange s
  else raise .addressOutOfRange s

/-- `close_setup()` (R144): one-way, idempotent. -/
def execCloseSetup (s : State) : Host.Outcome State Fault Refusal := finish .unit (s.setSetup false)

/-- `dump()` (R145). -/
def execDump (s : State) : Host.Outcome State Fault Refusal := finish (.runs (s.bytes.runs s.size 0)) s

end Sys2Proof.Machine
end

