-- ==== Sys2Proof/Machine/PacketKinds.lean ====
section
/-! DEFINITION. The packet kinds (45_message_codes.md R160-R175): a packet of the kind, handed to the block as its 20 bytes,
is decoded (41_codec.md R102; 60_exceptions.md R203: the host carries what it receives to `decode`). The fields besides the
message code are returned as found: no operation checks version, flags, sequence number, checksum or payload
(30_encoding.md R77). No packet kind does anything to the Memory (00_scope.md R5). DESIGN CHOICE (log 3). -/

namespace Sys2Proof.Machine

/-- A packet of a kind is handed to the block: the outcome is the Packet. -/
def receive (k : MessageCode) (f : PacketBody) (s : State) : Host.Outcome State Fault Refusal :=
  finish (.packet (f.toPacket k)) s

/-- A packet of kind HELLO (R161). -/
def execPktHello (f : PacketBody) (s : State) : Host.Outcome State Fault Refusal := receive .hello f s

/-- A packet of kind HELLO_REPLY (R162). -/
def execPktHelloReply (f : PacketBody) (s : State) : Host.Outcome State Fault Refusal := receive .helloReply f s

/-- A packet of kind REG_SEND0 (R163). -/
def execPktRegSend0 (f : PacketBody) (s : State) : Host.Outcome State Fault Refusal := receive .regSend0 f s

/-- A packet of kind REG_SEND1 (R164). -/
def execPktRegSend1 (f : PacketBody) (s : State) : Host.Outcome State Fault Refusal := receive .regSend1 f s

/-- A packet of kind REG_SEND2 (R165). -/
def execPktRegSend2 (f : PacketBody) (s : State) : Host.Outcome State Fault Refusal := receive .regSend2 f s

/-- A packet of kind REG_SEND3 (R166). -/
def execPktRegSend3 (f : PacketBody) (s : State) : Host.Outcome State Fault Refusal := receive .regSend3 f s

/-- A packet of kind INSTS (R167). -/
def execPktInsts (f : PacketBody) (s : State) : Host.Outcome State Fault Refusal := receive .insts f s

/-- A packet of kind INSTS_REPLY (R168). -/
def execPktInstsReply (f : PacketBody) (s : State) : Host.Outcome State Fault Refusal := receive .instsReply f s

/-- A packet of kind TERMINATE_REG0 (R169). -/
def execPktTerminateReg0 (f : PacketBody) (s : State) : Host.Outcome State Fault Refusal := receive .terminateReg0 f s

/-- A packet of kind REG_STORE0 (R170). -/
def execPktRegStore0 (f : PacketBody) (s : State) : Host.Outcome State Fault Refusal := receive .regStore0 f s

/-- A packet of kind REG_STORE1 (R171). -/
def execPktRegStore1 (f : PacketBody) (s : State) : Host.Outcome State Fault Refusal := receive .regStore1 f s

/-- A packet of kind REG_STORE2 (R172). -/
def execPktRegStore2 (f : PacketBody) (s : State) : Host.Outcome State Fault Refusal := receive .regStore2 f s

/-- A packet of kind REG_STORE3 (R173). -/
def execPktRegStore3 (f : PacketBody) (s : State) : Host.Outcome State Fault Refusal := receive .regStore3 f s

/-- A packet of kind LOAD_REPLY (R174). -/
def execPktLoadReply (f : PacketBody) (s : State) : Host.Outcome State Fault Refusal := receive .loadReply f s

/-- A packet of kind ACK (R175). -/
def execPktAck (f : PacketBody) (s : State) : Host.Outcome State Fault Refusal := receive .ack f s

end Sys2Proof.Machine
end

