-- ==== Sys2Proof/Machine/Predicates.lean ====
section
/-! DEFINITION. The predicate family (42_predicates.md): each reads only the fields its rule names (R110). -/

namespace Sys2Proof.Machine

/-- `is_hello(P)` (R111). -/
def execIsHello (p : Packet) (s : State) : Host.Outcome State Fault Refusal :=
  finish (.bool (decide (p.messageCode = MessageCode.hello.value))) s

/-- `has_ack(P)` (R112): bit 0 of `instruction_1`, whatever the message code. -/
def execHasAck (p : Packet) (s : State) : Host.Outcome State Fault Refusal :=
  finish (.bool (ackBit p.instruction1)) s

/-- `has_store(P)` (R113): bit 1 of `instruction_1`. -/
def execHasStore (p : Packet) (s : State) : Host.Outcome State Fault Refusal :=
  finish (.bool (storeBit p.instruction1)) s

/-- `has_pc(P)` (R114): both conjuncts as written, the bit test on the message code. -/
def execHasPc (p : Packet) (s : State) : Host.Outcome State Fault Refusal :=
  finish (.bool (decide (p.messageCode = MessageCode.instsReply.value) && p.messageCode.getLsbD 0)) s

end Sys2Proof.Machine
end

