-- ==== Sys2Proof/Machine/Dispatch.lean ====
section
/-! DEFINITION. One arm per constructor of Instr, each a call of its meaning. -/

namespace Sys2Proof.Machine

/-- The meaning of an instruction (00_scope.md R5). -/
def exec (i : Instr) (s : State) : Host.Outcome State Fault Refusal :=
  match i with
  | .checksum b => Sys2Proof.Machine.execChecksum b s
  | .encode p => Sys2Proof.Machine.execEncode p s
  | .decode b => Sys2Proof.Machine.execDecode b s
  | .setChecksum p => Sys2Proof.Machine.execSetChecksum p s
  | .verifyChecksum p => Sys2Proof.Machine.execVerifyChecksum p s
  | .isHello p => Sys2Proof.Machine.execIsHello p s
  | .hasAck p => Sys2Proof.Machine.execHasAck p s
  | .hasStore p => Sys2Proof.Machine.execHasStore p s
  | .hasPc p => Sys2Proof.Machine.execHasPc p s
  | .makeHello => Sys2Proof.Machine.execMakeHello s
  | .makeHelloReply => Sys2Proof.Machine.execMakeHelloReply s
  | .makeRegSend index r0 r1 r2 r3 => Sys2Proof.Machine.execMakeRegSend index r0 r1 r2 r3 s
  | .makeRegStore index v0 v1 v2 v3 => Sys2Proof.Machine.execMakeRegStore index v0 v1 v2 v3 s
  | .registerPacket p regno r0 r1 r2 r3 => Sys2Proof.Machine.execRegisterPacket p regno r0 r1 r2 r3 s
  | .makeInstructionPacket i1 i2 i3 i4 => Sys2Proof.Machine.execMakeInstructionPacket i1 i2 i3 i4 s
  | .makePcPacket pc => Sys2Proof.Machine.execMakePcPacket pc s
  | .makeAckPacket => Sys2Proof.Machine.execMakeAckPacket s
  | .getByte addr => Sys2Proof.Machine.execGetByte addr s
  | .getWord addr => Sys2Proof.Machine.execGetWord addr s
  | .storeByte addr value => Sys2Proof.Machine.execStoreByte addr value s
  | .storeWord addr value => Sys2Proof.Machine.execStoreWord addr value s
  | .closeSetup => Sys2Proof.Machine.execCloseSetup s
  | .dump => Sys2Proof.Machine.execDump s
  | .pktHello f => Sys2Proof.Machine.execPktHello f s
  | .pktHelloReply f => Sys2Proof.Machine.execPktHelloReply f s
  | .pktRegSend0 f => Sys2Proof.Machine.execPktRegSend0 f s
  | .pktRegSend1 f => Sys2Proof.Machine.execPktRegSend1 f s
  | .pktRegSend2 f => Sys2Proof.Machine.execPktRegSend2 f s
  | .pktRegSend3 f => Sys2Proof.Machine.execPktRegSend3 f s
  | .pktInsts f => Sys2Proof.Machine.execPktInsts f s
  | .pktInstsReply f => Sys2Proof.Machine.execPktInstsReply f s
  | .pktTerminateReg0 f => Sys2Proof.Machine.execPktTerminateReg0 f s
  | .pktRegStore0 f => Sys2Proof.Machine.execPktRegStore0 f s
  | .pktRegStore1 f => Sys2Proof.Machine.execPktRegStore1 f s
  | .pktRegStore2 f => Sys2Proof.Machine.execPktRegStore2 f s
  | .pktRegStore3 f => Sys2Proof.Machine.execPktRegStore3 f s
  | .pktLoadReply f => Sys2Proof.Machine.execPktLoadReply f s
  | .pktAck f => Sys2Proof.Machine.execPktAck f s

end Sys2Proof.Machine
end

