-- ==== Sys2Proof/Machine/Step.lean ====
section
/-! DEFINITION. One step: the host presents its next request and the block performs it completely (00_scope.md R4). -/

namespace Sys2Proof.Machine

/-- One step. With no request the block waits and holds its state (10_state.md R21, 60_exceptions.md R199; log 1). A request
that is no operation is refused (60_exceptions.md R185; log 12). -/
def step (s : State) : Host.Outcome State Fault Refusal :=
  match s.fetch? with
  | none => .next s
  | some (r, s') =>
    match decode r with
    | .ok i => exec i s'
    | .error _ => .refused .illegalOperation

/-- The state in which the very next step runs the instruction of an opcode-table word: the host presents it next (log 1,
log 15). -/
def State.withFetchWord (s : State) (nbits w : Nat) : State := s.present (tableRequest nbits w)

end Sys2Proof.Machine
end

