-- ==== Sys2Proof/Safety.lean ====
section
/-! DEFINITION. The terms in which the claims are stated: the invariant of the state, what a run in OPERATIONAL mode must
leave alone, the families of operations, and independent readings of the spec's formulas to compare the model with. -/

namespace Sys2Proof

/-! ### Invariants of the state -/

/-- The invariants of 10_state.md R31 over the model's state: the bound is below the size, the byte buffer is in its
canonical form, and no cell outside `[0, M.size)` is listed. -/
abbrev Machine.State.Inv (s : Machine.State) : Prop :=
  s.readBound < s.size ∧ Machine.Memory.wf s.bytes = true ∧ ∀ c ∈ s.bytes, c.1 < s.size

/-- What R30 promises from a state in OPERATIONAL mode to a later one: still OPERATIONAL, the same bound and size, and the
same byte at every protected address. -/
abbrev Machine.State.Guarded (s t : Machine.State) : Prop :=
  t.setup = false ∧ t.size = s.size ∧ t.readBound = s.readBound ∧
    ∀ a, a < s.readBound → Machine.Memory.read t.bytes a = Machine.Memory.read s.bytes a

/-! ### Families of operations (00_scope.md R3) -/

/-- The eight constructors. -/
def Instr.isConstructor : Instr → Bool
  | .makeHello | .makeHelloReply | .makeRegSend .. | .makeRegStore .. | .registerPacket .. => true
  | .makeInstructionPacket .. | .makePcPacket _ | .makeAckPacket => true
  | _ => false

/-- The seven constructors that build a new Packet (43_constructors.md R120). -/
def Instr.isFreshConstructor : Instr → Bool
  | .registerPacket .. => false
  | i => i.isConstructor

/-- The six memory operations. -/
def Instr.isMemoryOp : Instr → Bool
  | .getByte _ | .getWord _ | .storeByte .. | .storeWord .. | .closeSetup | .dump => true
  | _ => false

/-! ### Independent readings of the spec's formulas -/

/-- The pseudocode of 40_checksum.md R92 over indexes, in natural numbers. -/
def Reference.checksum (b : Bytes) : Nat :=
  let n := b.length
  let loop := (List.range (n / 2)).foldl (init := 0) fun sum i =>
    let t := sum + (256 * (byteAt b (2 * i)).toNat + (byteAt b (2 * i + 1)).toNat)
    t % 65536 + t / 65536
  let odd := if n % 2 = 1 then loop + 256 * (byteAt b (n - 1)).toNat else loop
  let folded := odd % 65536 + odd / 65536
  65535 - folded % 65536

/-- The plain sum of a buffer's big-endian 16-bit words, an odd last byte being a high byte (R91). -/
def Reference.wordSum : Bytes → Nat
  | b0 :: b1 :: rest => 256 * b0.toNat + b1.toNat + Reference.wordSum rest
  | [b0] => 256 * b0.toNat
  | [] => 0

/-- The number of each named message code, as 30_encoding.md R75 lists them. -/
def Reference.codeNumber : MessageCode → Nat
  | .hello => 1
  | .helloReply => 2
  | .regSend0 => 4
  | .regSend1 => 5
  | .regSend2 => 6
  | .regSend3 => 7
  | .insts => 8
  | .instsReply => 9
  | .terminateReg0 => 10
  | .regStore0 => 12
  | .regStore1 => 13
  | .regStore2 => 14
  | .regStore3 => 15
  | .loadReply => 16
  | .ack => 31

/-- Four bytes as a big-endian number (20_memory.md R43). -/
def Reference.be32Value (b0 b1 b2 b3 : Byte) : Nat :=
  16777216 * b0.toNat + 65536 * b1.toNat + 256 * b2.toNat + b3.toNat

/-- The byte of a 32-bit number at offset `j` of its big-endian form, `j = 0` the most significant (R43). -/
def Reference.byteOfWord (v : Nat) (j : Nat) : Byte := BitVec.ofNat 8 (v / 256 ^ (3 - j))

/-- A byte buffer as one big-endian number `b[0] ‖ b[1] ‖ ...` (30_encoding.md R73). -/
def Reference.bigEndian : Bytes → Nat
  | [] => 0
  | x :: rest => 256 ^ rest.length * x.toNat + Reference.bigEndian rest

/-- The runs of consecutive listed cells, read from the list alone, without visiting the addresses between them. -/
def Reference.cellRuns : Machine.Memory → List (Nat × Bytes)
  | [] => []
  | (a, v) :: rest =>
    match Reference.cellRuns rest with
    | (start, bs) :: tail =>
      if start = a + 1 then (a, v :: bs) :: tail else (a, [v]) :: (start, bs) :: tail
    | [] => [(a, [v])]

/-- One run of 44_memory_ops.md R145: not empty, inside the buffer, its bytes the cells' and none of them 0, and not
extendable to either side. -/
def Reference.IsMaximalRun (m : Machine.Memory) (size : Nat) (run : Nat × Bytes) : Prop :=
  run.2 ≠ [] ∧ run.1 + run.2.length ≤ size ∧
    (∀ j, j < run.2.length → byteAt run.2 j = Machine.Memory.read m (run.1 + j) ∧ byteAt run.2 j ≠ 0) ∧
    (∀ p, p + 1 = run.1 → Machine.Memory.read m p = 0) ∧
    (run.1 + run.2.length < size → Machine.Memory.read m (run.1 + run.2.length) = 0)

/-- The list of all maximal runs in rising address order (R145). -/
def Reference.IsRunList (m : Machine.Memory) (size : Nat) (l : List (Nat × Bytes)) : Prop :=
  (∀ run ∈ l, Reference.IsMaximalRun m size run) ∧
    (∀ a, a < size → Machine.Memory.read m a ≠ 0 → ∃ run ∈ l, run.1 ≤ a ∧ a < run.1 + run.2.length) ∧
    l.Pairwise fun x y => x.1 + x.2.length < y.1

end Sys2Proof
end

