-- ==== Sys2Proof/Certificates/Slice0/Obligations.lean ====
section
/-! DEFINITION. The statements for the provers. In each, `exec i s = .next { s with outcome := … }` says that the operation
completes, what the host receives, and that every other part of the state is as it was. The fields `outcome` and `requests`
are the model's own and stand for the host (log 1, log 2); the spec's state is the other four. -/

open Sys2Proof Sys2Proof.Machine

/-! ### Checksum family -/

/-- 40_checksum.md R92: `checksum` succeeds on every buffer and its result is the one the pseudocode computes (the loop over
word indexes with a fold after each addition, the odd tail, the last fold and the complement). -/
def Obligations.ChecksumFollowsTheAlgorithm : Prop :=
  ∀ (b : Bytes) (s : State),
    exec (.checksum b) s =
      .next { s with outcome := some (.ok (.u16 (BitVec.ofNat 16 (Reference.checksum b)))) }

/-- 40_checksum.md, the laws the spec derives: the result and the sum of all words add up to 0 modulo 65535, and it is
0xFFFF exactly when every word is zero. The two together determine it. -/
def Obligations.ChecksumComplementsTheWordSum : Prop :=
  ∀ (b : Bytes) (s : State), ∃ c : BitVec 16,
    exec (.checksum b) s = .next { s with outcome := some (.ok (.u16 c)) } ∧
      (c.toNat + Reference.wordSum b) % 65535 = 0 ∧
      (c = 0xFFFF#16 ↔ Reference.wordSum b = 0)

/-- 40_checksum.md, derived law (b): the order of the 16-bit words of a buffer does not matter. -/
def Obligations.ChecksumIgnoresWordOrder : Prop :=
  ∀ (ws ws' : List (BitVec 16)), ws.Perm ws' → ∀ s : State,
    exec (.checksum (ws.flatMap bytes16)) s = exec (.checksum (ws'.flatMap bytes16)) s

/-- 40_checksum.md, derived bounds: from a sum of at most 16 bits, the sum before the last fold is at most 0x1FEFF and the
folded sum at most 0xFFFF, so one fold per addition suffices. -/
def Obligations.RunningSumFitsSeventeenBits : Prop :=
  ∀ (b : Bytes) (sum : Nat), sum ≤ 0xFFFF →
    runningSum sum b ≤ 0x1FEFF ∧ fold16 (runningSum sum b) ≤ 0xFFFF

/-- 40_checksum.md, the table of corner cases. -/
def Obligations.ChecksumCornerCases : Prop :=
  ∀ s : State, ∀ c ∈ ([([], 0xFFFF), ([0x00], 0xFFFF), ([0xFF], 0x00FF), ([0x01], 0xFEFF), ([0x00, 0x00], 0xFFFF),
      ([0xFF, 0xFF], 0x0000), ([0xFF, 0xFF, 0xFF, 0xFF], 0x0000), ([0xFF, 0xFF, 0x00, 0x01], 0xFFFE),
      ([0x80, 0x00, 0x80, 0x00], 0xFFFE), ([0xFF, 0xFE, 0x00, 0x01], 0x0000), ([0xFF, 0xFF, 0xFF], 0x00FF),
      ([0x12, 0x34, 0x56], 0x97CB)] : List (Bytes × BitVec 16)),
    exec (.checksum c.1) s = .next { s with outcome := some (.ok (.u16 c.2)) }

/-- 95_test_vectors.md V-CK-LAW, 40_checksum.md law (c): the checksum of the 20 bytes of a packet whose checksum field is
set is 0. -/
def Obligations.ChecksummedPacketSumsToZero : Prop :=
  ∀ (p : Packet) (s : State), ∃ (q : Packet) (b : Bytes),
    exec (.setChecksum p) s = .next { s with outcome := some (.ok (.packet q)) } ∧
      exec (.encode q) s = .next { s with outcome := some (.ok (.bytes b)) } ∧
      exec (.checksum b) s = .next { s with outcome := some (.ok (.u16 0)) }

/-! ### Codec family -/

/-- `encode` gives the 20 bytes of the layout, each as a number computed from the fields. The header positions are the
spec's decision D3 (log 5). -/
def Obligations.EncodePlacesEveryField : Prop :=
  ∀ (p : Packet) (s : State),
    exec (.encode p) s =
      .next { s with outcome := some (.ok (.bytes
        [BitVec.ofNat 8 (64 * p.version.toNat + p.messageCode.toNat),
          BitVec.ofNat 8 (16 * p.flags.toNat + p.aSeqNum.toNat),
          BitVec.ofNat 8 (p.checksum.toNat / 256), BitVec.ofNat 8 p.checksum.toNat,
          Reference.byteOfWord p.instruction1.toNat 0, Reference.byteOfWord p.instruction1.toNat 1,
          Reference.byteOfWord p.instruction1.toNat 2, Reference.byteOfWord p.instruction1.toNat 3,
          Reference.byteOfWord p.instruction2.toNat 0, Reference.byteOfWord p.instruction2.toNat 1,
          Reference.byteOfWord p.instruction2.toNat 2, Reference.byteOfWord p.instruction2.toNat 3,
          Reference.byteOfWord p.instruction3.toNat 0, Reference.byteOfWord p.instruction3.toNat 1,
          Reference.byteOfWord p.instruction3.toNat 2, Reference.byteOfWord p.instruction3.toNat 3,
          Reference.byteOfWord p.instruction4.toNat 0, Reference.byteOfWord p.instruction4.toNat 1,
          Reference.byteOfWord p.instruction4.toNat 2, Reference.byteOfWord p.instruction4.toNat 3])) }

/-- `decode` of a 20-byte buffer gives the Packet whose fields are read from the bytes as numbers. The header positions are
the spec's decision D3 (log 5). -/
def Obligations.DecodeReadsEveryField : Prop :=
  ∀ (b : Bytes) (s : State), b.length = 20 → ∃ p : Packet,
    exec (.decode b) s = .next { s with outcome := some (.ok (.packet p)) } ∧
      p.version.toNat = (byteAt b 0).toNat / 64 ∧
      p.messageCode.toNat = (byteAt b 0).toNat % 64 ∧
      p.flags.toNat = (byteAt b 1).toNat / 16 ∧
      p.aSeqNum.toNat = (byteAt b 1).toNat % 16 ∧
      p.checksum.toNat = 256 * (byteAt b 2).toNat + (byteAt b 3).toNat ∧
      p.instruction1.toNat = Reference.be32Value (byteAt b 4) (byteAt b 5) (byteAt b 6) (byteAt b 7) ∧
      p.instruction2.toNat = Reference.be32Value (byteAt b 8) (byteAt b 9) (byteAt b 10) (byteAt b 11) ∧
      p.instruction3.toNat = Reference.be32Value (byteAt b 12) (byteAt b 13) (byteAt b 14) (byteAt b 15) ∧
      p.instruction4.toNat = Reference.be32Value (byteAt b 16) (byteAt b 17) (byteAt b 18) (byteAt b 19)

/-- 60_exceptions.md R183: `decode` ends in MalformedPacket exactly when the buffer is not 20 bytes long, and `encode` never
does. -/
def Obligations.MalformedPacketExactlyOnLength : Prop :=
  (∀ (b : Bytes) (s : State),
      exec (.decode b) s = .next { s with outcome := some (.error .malformedPacket) } ↔ b.length ≠ 20) ∧
    ∀ (p : Packet) (s t : State), exec (.encode p) s = .next t → t.outcome ≠ some (.error .malformedPacket)

/-- 41_codec.md, the derived bijection: decoding an encoded Packet gives it back, and encoding a decoded 20-byte buffer gives
that back. -/
def Obligations.PacketAndBytesRoundTrip : Prop :=
  (∀ (p : Packet) (s : State), ∃ b : Bytes,
      exec (.encode p) s = .next { s with outcome := some (.ok (.bytes b)) } ∧
        exec (.decode b) s = .next { s with outcome := some (.ok (.packet p)) }) ∧
    ∀ (b : Bytes) (s : State), b.length = 20 → ∃ p : Packet,
      exec (.decode b) s = .next { s with outcome := some (.ok (.packet p)) } ∧
        exec (.encode p) s = .next { s with outcome := some (.ok (.bytes b)) }

/-- 41_codec.md R103: `set_checksum` gives P with the checksum of its 20 bytes taken with the field zeroed; the old value has
no influence and a second application changes nothing. -/
def Obligations.SetChecksumSetsOneField : Prop :=
  ∀ (p : Packet) (s : State), ∃ (b : Bytes) (c : BitVec 16),
    exec (.encode { p with checksum := 0 }) s = .next { s with outcome := some (.ok (.bytes b)) } ∧
      b.length = 20 ∧
      exec (.checksum b) s = .next { s with outcome := some (.ok (.u16 c)) } ∧
      exec (.setChecksum p) s = .next { s with outcome := some (.ok (.packet { p with checksum := c })) } ∧
      ∀ old : BitVec 16,
        exec (.setChecksum { p with checksum := old }) s =
          .next { s with outcome := some (.ok (.packet { p with checksum := c })) }

/-- 41_codec.md R104: `verify_checksum` reports whether the recomputed checksum equals the stored one, which is whether
`set_checksum` would leave the Packet as it is; it never fails. -/
def Obligations.VerifyChecksumComparesWithStored : Prop :=
  ∀ (p : Packet) (s : State), ∃ (b : Bytes) (c : BitVec 16) (v : Bool),
    exec (.encode { p with checksum := 0 }) s = .next { s with outcome := some (.ok (.bytes b)) } ∧
      exec (.checksum b) s = .next { s with outcome := some (.ok (.u16 c)) } ∧
      exec (.verifyChecksum p) s = .next { s with outcome := some (.ok (.bool v)) } ∧
      (v = true ↔ c = p.checksum) ∧
      (v = true ↔ exec (.setChecksum p) s = .next { s with outcome := some (.ok (.packet p)) })

/-- 41_codec.md, the derived checksum round trip: the result of `set_checksum` verifies. -/
def Obligations.SetChecksumThenVerify : Prop :=
  ∀ (p : Packet) (s : State), ∃ q : Packet,
    exec (.setChecksum p) s = .next { s with outcome := some (.ok (.packet q)) } ∧
      exec (.verifyChecksum q) s = .next { s with outcome := some (.ok (.bool true)) }

/-! ### Predicate family -/

/-- 42_predicates.md R111-R114: the four predicates, bits read as arithmetic on the field's number. -/
def Obligations.PredicatesTestTheirFields : Prop :=
  ∀ (p : Packet) (s : State),
    exec (.isHello p) s = .next { s with outcome := some (.ok (.bool (decide (p.messageCode.toNat = 1)))) } ∧
      exec (.hasAck p) s = .next { s with outcome := some (.ok (.bool (decide (p.instruction1.toNat % 2 = 1)))) } ∧
      exec (.hasStore p) s =
        .next { s with outcome := some (.ok (.bool (decide (p.instruction1.toNat / 2 % 2 = 1)))) } ∧
      exec (.hasPc p) s =
        .next { s with outcome := some (.ok (.bool
          (decide (p.messageCode.toNat = 9 ∧ p.messageCode.toNat % 2 = 1)))) }

/-- 42_predicates.md, derived: for all 64 codes `has_pc` is the equality test with 9 alone. -/
def Obligations.HasPcReducesToCodeNine : Prop :=
  ∀ (p : Packet) (s : State),
    exec (.hasPc p) s = .next { s with outcome := some (.ok (.bool (decide (p.messageCode = 9#6)))) }

/-- 42_predicates.md R110: a predicate reads only the field its rule names; packets that agree on it agree on the answer,
and no other part of the state changes. -/
def Obligations.PredicatesIgnoreOtherFields : Prop :=
  ∀ p q : Packet,
    (p.messageCode = q.messageCode → ∃ hello pc : Bool, ∀ s : State,
      exec (.isHello p) s = .next { s with outcome := some (.ok (.bool hello)) } ∧
        exec (.isHello q) s = .next { s with outcome := some (.ok (.bool hello)) } ∧
        exec (.hasPc p) s = .next { s with outcome := some (.ok (.bool pc)) } ∧
        exec (.hasPc q) s = .next { s with outcome := some (.ok (.bool pc)) }) ∧
    (p.instruction1 = q.instruction1 → ∃ ack store : Bool, ∀ s : State,
      exec (.hasAck p) s = .next { s with outcome := some (.ok (.bool ack)) } ∧
        exec (.hasAck q) s = .next { s with outcome := some (.ok (.bool ack)) } ∧
        exec (.hasStore p) s = .next { s with outcome := some (.ok (.bool store)) } ∧
        exec (.hasStore q) s = .next { s with outcome := some (.ok (.bool store)) })

/-! ### Constructor family -/

/-- 30_encoding.md R74: the message code and the four instruction words of every constructor's result. `conv` of the table is
written out in the clause of `make_reg_store`, for values whose conversion a 32-bit field holds. -/
def Obligations.ConstructorsPlaceTheirOperands : Prop :=
  ∀ s : State,
    (∃ p : Packet, exec .makeHello s = .next { s with outcome := some (.ok (.packet p)) } ∧
      p.messageCode.toNat = 1 ∧ p.instruction1 = 0 ∧ p.instruction2 = 0 ∧ p.instruction3 = 0 ∧ p.instruction4 = 0) ∧
    (∃ p : Packet, exec .makeHelloReply s = .next { s with outcome := some (.ok (.packet p)) } ∧
      p.messageCode.toNat = 2 ∧ p.instruction1 = 0 ∧ p.instruction2 = 0 ∧ p.instruction3 = 0 ∧ p.instruction4 = 0) ∧
    (∀ (i : BitVec 2) (r0 r1 r2 r3 : Word), ∃ p : Packet,
      exec (.makeRegSend i r0 r1 r2 r3) s = .next { s with outcome := some (.ok (.packet p)) } ∧
        p.messageCode.toNat = 4 + i.toNat ∧ p.instruction1 = r0 ∧ p.instruction2 = r1 ∧ p.instruction3 = r2 ∧
        p.instruction4 = r3) ∧
    (∀ (i : BitVec 2) (v0 v1 v2 v3 : Int) (w0 w1 w2 w3 : Word),
      ((w0.toNat : Int) = if v0 < 0 then 2 ^ 32 + 1 + v0 else v0) →
      ((w1.toNat : Int) = if v1 < 0 then 2 ^ 32 + 1 + v1 else v1) →
      ((w2.toNat : Int) = if v2 < 0 then 2 ^ 32 + 1 + v2 else v2) →
      ((w3.toNat : Int) = if v3 < 0 then 2 ^ 32 + 1 + v3 else v3) → ∃ p : Packet,
      exec (.makeRegStore i v0 v1 v2 v3) s = .next { s with outcome := some (.ok (.packet p)) } ∧
        p.messageCode.toNat = 12 + i.toNat ∧ p.instruction1 = w0 ∧ p.instruction2 = w1 ∧ p.instruction3 = w2 ∧
        p.instruction4 = w3) ∧
    (∀ (q : Packet) (n : BitVec 2) (r0 r1 r2 r3 : Word), ∃ p : Packet,
      exec (.registerPacket q n r0 r1 r2 r3) s = .next { s with outcome := some (.ok (.packet p)) } ∧
        p.messageCode.toNat = n.toNat + 4 ∧ p.instruction1 = r0 ∧ p.instruction2 = r1 ∧ p.instruction3 = r2 ∧
        p.instruction4 = r3) ∧
    (∀ i1 i2 i3 i4 : Word, ∃ p : Packet,
      exec (.makeInstructionPacket i1 i2 i3 i4) s = .next { s with outcome := some (.ok (.packet p)) } ∧
        p.messageCode.toNat = 8 ∧ p.instruction1 = i1 ∧ p.instruction2 = i2 ∧ p.instruction3 = i3 ∧
        p.instruction4 = i4) ∧
    (∀ pc : Word, ∃ p : Packet,
      exec (.makePcPacket pc) s = .next { s with outcome := some (.ok (.packet p)) } ∧
        p.messageCode.toNat = 9 ∧ p.instruction1 = 1 ∧ p.instruction2 = 0 ∧ p.instruction3 = 0 ∧
        p.instruction4 = pc) ∧
    (∃ p : Packet, exec .makeAckPacket s = .next { s with outcome := some (.ok (.packet p)) } ∧
      p.messageCode.toNat = 31 ∧ p.instruction1 = 0 ∧ p.instruction2 = 0 ∧ p.instruction3 = 0 ∧ p.instruction4 = 0)

/-- 43_constructors.md section 1 (decision D5, log 6): a packet that a constructor builds fresh has version 0, flags 1 and
sequence number 0. -/
def Obligations.FreshPacketsHaveTheProducerHeader : Prop :=
  ∀ (i : Instr) (s t : State) (p : Packet), i.isFreshConstructor = true → exec i s = .next t →
    t.outcome = some (.ok (.packet p)) → p.version = 0#2 ∧ p.flags = 1#4 ∧ p.aSeqNum = 0#4

/-- 43_constructors.md R121: every constructor result verifies; a constructor that fails returns no packet. -/
def Obligations.ConstructorResultsAreChecksummed : Prop :=
  ∀ (i : Instr) (s : State), i.isConstructor = true →
    (∃ p : Packet, exec i s = .next { s with outcome := some (.ok (.packet p)) } ∧
      ∀ u : State, exec (.verifyChecksum p) u = .next { u with outcome := some (.ok (.bool true)) }) ∨
    (∃ k : ErrorKind, exec i s = .next { s with outcome := some (.error k) })

/-- 43_constructors.md section 2, the worked examples of the three constructors without operands, as Packets and as bytes.
They rest on the spec's decisions D3 and D5 (log 5, log 6). -/
def Obligations.ConstantPacketsAreAsPrinted : Prop :=
  ∀ s : State,
    (exec .makeHello s = .next { s with outcome := some (.ok (.packet ⟨0, 1, 1, 0, 0xFEEF, 0, 0, 0, 0⟩)) } ∧
      exec (.encode ⟨0, 1, 1, 0, 0xFEEF, 0, 0, 0, 0⟩) s = .next { s with outcome := some (.ok (.bytes
        [0x01, 0x10, 0xFE, 0xEF, 0, 0, 0, 0, 0, 0, 0, 0, 0, 0, 0, 0, 0, 0, 0, 0])) }) ∧
    (exec .makeHelloReply s = .next { s with outcome := some (.ok (.packet ⟨0, 2, 1, 0, 0xFDEF, 0, 0, 0, 0⟩)) } ∧
      exec (.encode ⟨0, 2, 1, 0, 0xFDEF, 0, 0, 0, 0⟩) s = .next { s with outcome := some (.ok (.bytes
        [0x02, 0x10, 0xFD, 0xEF, 0, 0, 0, 0, 0, 0, 0, 0, 0, 0, 0, 0, 0, 0, 0, 0])) }) ∧
    (exec .makeAckPacket s = .next { s with outcome := some (.ok (.packet ⟨0, 31, 1, 0, 0xE0EF, 0, 0, 0, 0⟩)) } ∧
      exec (.encode ⟨0, 31, 1, 0, 0xE0EF, 0, 0, 0, 0⟩) s = .next { s with outcome := some (.ok (.bytes
        [0x1F, 0x10, 0xE0, 0xEF, 0, 0, 0, 0, 0, 0, 0, 0, 0, 0, 0, 0, 0, 0, 0, 0])) })

/-- 43_constructors.md section 2 (decision D8, log 7): `make_reg_store` gives a packet exactly when all four converted values
lie in `0 .. 2^32 - 1`, for operands of any size; otherwise FieldOverflow, with nothing else changed. -/
def Obligations.MakeRegStoreOutcome : Prop :=
  ∀ (i : BitVec 2) (v0 v1 v2 v3 : Int) (s : State),
    if ∀ v ∈ [v0, v1, v2, v3], 0 ≤ regstoreConvert v ∧ regstoreConvert v ≤ 2 ^ 32 - 1 then
      ∃ p : Packet, exec (.makeRegStore i v0 v1 v2 v3) s = .next { s with outcome := some (.ok (.packet p)) } ∧
        [p.instruction1, p.instruction2, p.instruction3, p.instruction4].map (fun w => (w.toNat : Int)) =
          [v0, v1, v2, v3].map regstoreConvert
    else exec (.makeRegStore i v0 v1 v2 v3) s = .next { s with outcome := some (.error .fieldOverflow) }

/-- 43_constructors.md section 2 (decision D8, log 7): inside the operand domain FieldOverflow happens exactly when one of the
four values is -1. -/
def Obligations.FieldOverflowExactlyOnMinusOne : Prop :=
  ∀ (i : BitVec 2) (v0 v1 v2 v3 : Int) (s : State), (Instr.makeRegStore i v0 v1 v2 v3).wf = true →
    (exec (.makeRegStore i v0 v1 v2 v3) s = .next { s with outcome := some (.error .fieldOverflow) } ↔
      -1 ∈ [v0, v1, v2, v3])

/-- 43_constructors.md section 2 (decision D16, log 10): `register_packet` keeps the receiver's version and sequence number,
sets flags 1, and on a receiver with both 0 gives what `make_reg_send` gives. -/
def Obligations.RegisterPacketKeepsTheReceiver : Prop :=
  ∀ (q : Packet) (n : BitVec 2) (r0 r1 r2 r3 : Word) (s : State),
    (∃ p : Packet, exec (.registerPacket q n r0 r1 r2 r3) s = .next { s with outcome := some (.ok (.packet p)) } ∧
      p.version = q.version ∧ p.aSeqNum = q.aSeqNum ∧ p.flags = 1#4) ∧
    (q.version = 0#2 → q.aSeqNum = 0#4 →
      exec (.registerPacket q n r0 r1 r2 r3) s = exec (.makeRegSend n r0 r1 r2 r3) s)

/-- 41_codec.md, the derived packet round trip: what any constructor builds survives encode and decode field by field, and the
decoded packet verifies. -/
def Obligations.ConstructedPacketsSurviveTheWire : Prop :=
  ∀ (i : Instr) (s t : State) (p : Packet), i.isConstructor = true → exec i s = .next t →
    t.outcome = some (.ok (.packet p)) → ∀ u : State, ∃ b : Bytes,
      exec (.encode p) u = .next { u with outcome := some (.ok (.bytes b)) } ∧
        exec (.decode b) u = .next { u with outcome := some (.ok (.packet p)) } ∧
        exec (.verifyChecksum p) u = .next { u with outcome := some (.ok (.bool true)) }

/-- 90_conflicts.md C9: the two surprising consequences, as they stand. A PC packet satisfies `has_pc` and `has_ack` and not
`has_store`; the ACK packet satisfies none of the four predicates. -/
def Obligations.PcPacketHasAckAndAckPacketHasNot : Prop :=
  ∀ s : State,
    (∀ pc : Word, ∃ p : Packet, exec (.makePcPacket pc) s = .next { s with outcome := some (.ok (.packet p)) } ∧
      exec (.hasPc p) s = .next { s with outcome := some (.ok (.bool true)) } ∧
      exec (.hasAck p) s = .next { s with outcome := some (.ok (.bool true)) } ∧
      exec (.hasStore p) s = .next { s with outcome := some (.ok (.bool false)) }) ∧
    (∃ p : Packet, exec .makeAckPacket s = .next { s with outcome := some (.ok (.packet p)) } ∧
      exec (.hasAck p) s = .next { s with outcome := some (.ok (.bool false)) } ∧
      exec (.hasStore p) s = .next { s with outcome := some (.ok (.bool false)) } ∧
      exec (.hasPc p) s = .next { s with outcome := some (.ok (.bool false)) } ∧
      exec (.isHello p) s = .next { s with outcome := some (.ok (.bool false)) })

/-! ### Memory family -/

/-- 44_memory_ops.md R140: `get_byte` gives the cell for an address in range and AddressOutOfRange for any other, in both
lifecycle states. -/
def Obligations.GetByteOutcome : Prop :=
  ∀ (addr : Int) (s : State),
    if 0 ≤ addr ∧ addr < s.size then
      exec (.getByte addr) s = .next { s with outcome := some (.ok (.u8 (Memory.read s.bytes addr.toNat))) }
    else exec (.getByte addr) s = .next { s with outcome := some (.error .addressOutOfRange) }

/-- 44_memory_ops.md R141: `get_word` gives the four cells as a big-endian number for `0 ≤ addr ≤ M.size - 4`, with no
alignment rule, and AddressOutOfRange otherwise. -/
def Obligations.GetWordOutcome : Prop :=
  ∀ (addr : Int) (s : State),
    if 0 ≤ addr ∧ addr ≤ (s.size : Int) - 4 then
      ∃ w : Word, exec (.getWord addr) s = .next { s with outcome := some (.ok (.u32 w)) } ∧
        w.toNat = Reference.be32Value (Memory.read s.bytes addr.toNat) (Memory.read s.bytes (addr.toNat + 1))
          (Memory.read s.bytes (addr.toNat + 2)) (Memory.read s.bytes (addr.toNat + 3))
    else exec (.getWord addr) s = .next { s with outcome := some (.error .addressOutOfRange) }

/-- 44_memory_ops.md R142: the three checks of `store_byte` in order, the first that fails deciding the error; when all pass,
the cell holds the value and every other cell what it held. -/
def Obligations.StoreByteOutcome : Prop :=
  ∀ (addr value : Int) (s : State),
    if ¬(0 ≤ addr ∧ addr < s.size) then
      exec (.storeByte addr value) s = .next { s with outcome := some (.error .addressOutOfRange) }
    else if ¬(s.setup = true ∨ (s.readBound : Int) ≤ addr) then
      exec (.storeByte addr value) s = .next { s with outcome := some (.error .addressOutOfRange) }
    else if ¬(0 ≤ value ∧ value ≤ 255) then
      exec (.storeByte addr value) s = .next { s with outcome := some (.error .valueOutOfRange) }
    else
      ∃ m : Memory, exec (.storeByte addr value) s = .next { s with bytes := m, outcome := some (.ok .unit) } ∧
        ((Memory.read m addr.toNat).toNat : Int) = value ∧
        ∀ a : Nat, (a : Int) ≠ addr → Memory.read m a = Memory.read s.bytes a

/-- 44_memory_ops.md R143: the three checks of `store_word` in order; when all pass, the four cells hold the value's bytes,
most significant at `addr`, and every other cell what it held. -/
def Obligations.StoreWordOutcome : Prop :=
  ∀ (addr value : Int) (s : State),
    if ¬(0 ≤ addr ∧ addr + 3 < s.size) then
      exec (.storeWord addr value) s = .next { s with outcome := some (.error .addressOutOfRange) }
    else if ¬(s.setup = true ∨ (s.readBound : Int) ≤ addr) then
      exec (.storeWord addr value) s = .next { s with outcome := some (.error .addressOutOfRange) }
    else if ¬(0 ≤ value ∧ value ≤ 4294967295) then
      exec (.storeWord addr value) s = .next { s with outcome := some (.error .valueOutOfRange) }
    else
      ∃ m : Memory, exec (.storeWord addr value) s = .next { s with bytes := m, outcome := some (.ok .unit) } ∧
        (∀ j : Nat, j < 4 → Memory.read m (addr.toNat + j) = Reference.byteOfWord value.toNat j) ∧
        ∀ a : Nat, (a : Int) < addr ∨ addr + 4 ≤ a → Memory.read m a = Memory.read s.bytes a

/-- 44_memory_ops.md R144: `close_setup` clears the lifecycle bit in either state and changes nothing else. -/
def Obligations.CloseSetupClearsSetup : Prop :=
  ∀ s : State, exec .closeSetup s = .next { s with setup := false, outcome := some (.ok .unit) }

/-- 44_memory_ops.md section on `dump` (decision D14, log 14): the result is the list of all maximal runs of non-zero cells,
in rising address order; nothing changes. -/
def Obligations.DumpReportsTheMaximalRuns : Prop :=
  ∀ s : State, ∃ l : List (Nat × Bytes),
    exec .dump s = .next { s with outcome := some (.ok (.runs l)) } ∧ Reference.IsRunList s.bytes s.size l

/-- A refinement: in a state that meets the invariant, `dump` gives the runs read from the listed cells alone, without
visiting the addresses between them. The runs are the spec's decision D14 (log 14); that memory is a canonical list of cells
is the model's choice (log 20, a DESIGN CHOICE). -/
def Obligations.DumpGroupsTheListedCells : Prop :=
  ∀ s : State, s.Inv →
    exec .dump s = .next { s with outcome := some (.ok (.runs (Reference.cellRuns s.bytes))) }

/-- 20_memory.md section 2, derived: after a successful `store_word(a, v)` the four `get_byte` give the bytes of `v`, most
significant at `a`, and `get_word(a)` gives `v`. -/
def Obligations.StoredWordReadsBack : Prop :=
  ∀ (addr value : Int) (s t : State), exec (.storeWord addr value) s = .next t → t.outcome = some (.ok .unit) →
    (∀ j : Nat, j < 4 → exec (.getByte (addr + j)) t =
      .next { t with outcome := some (.ok (.u8 (Reference.byteOfWord value.toNat j))) }) ∧
    exec (.getWord addr) t = .next { t with outcome := some (.ok (.u32 (BitVec.ofInt 32 value))) }

/-- 20_memory.md section 2, derived: after four successful `store_byte(a + j, b_j)` in any lifecycle state, `get_word(a)` is
the big-endian number of the four bytes. -/
def Obligations.StoredBytesReadAsWord : Prop :=
  ∀ (addr b0 b1 b2 b3 : Int) (s s0 s1 s2 t : State),
    exec (.storeByte addr b0) s = .next s0 → s0.outcome = some (.ok .unit) →
    exec (.storeByte (addr + 1) b1) s0 = .next s1 → s1.outcome = some (.ok .unit) →
    exec (.storeByte (addr + 2) b2) s1 = .next s2 → s2.outcome = some (.ok .unit) →
    exec (.storeByte (addr + 3) b3) s2 = .next t → t.outcome = some (.ok .unit) →
    ∃ w : Word, exec (.getWord addr) t = .next { t with outcome := some (.ok (.u32 w)) } ∧
      (w.toNat : Int) = 2 ^ 24 * b0 + 2 ^ 16 * b1 + 2 ^ 8 * b2 + b3

/-- 20_memory.md R51: `get_byte`, `get_word` and `dump` give the same outcome whatever the lifecycle bit and the bound, and
only an address out of range makes a read fail. -/
def Obligations.ReadsIgnoreTheLifecycle : Prop :=
  ∀ (addr : Int) (s : State),
    (∀ (setup : Bool) (readBound : Nat), ∀ i ∈ [Instr.getByte addr, Instr.getWord addr, Instr.dump], ∃ o : Response,
      exec i s = .next { s with outcome := some o } ∧
        exec i { s with setup := setup, readBound := readBound } =
          .next { s with setup := setup, readBound := readBound, outcome := some o }) ∧
    ∀ k : ErrorKind,
      (exec (.getByte addr) s = .next { s with outcome := some (.error k) } → addr < 0 ∨ addr ≥ s.size) ∧
        (exec (.getWord addr) s = .next { s with outcome := some (.error k) } → addr < 0 ∨ addr > (s.size : Int) - 4) ∧
        exec .dump s ≠ .next { s with outcome := some (.error k) }

/-- 60_exceptions.md R181 and R182: the exact conditions of AddressOutOfRange for the four accesses, and of ValueOutOfRange
for the two stores (only after the address checks pass; reads never). -/
def Obligations.MemoryErrorConditions : Prop :=
  ∀ (addr value : Int) (s : State),
    (exec (.getByte addr) s = .next { s with outcome := some (.error .addressOutOfRange) } ↔
      addr < 0 ∨ addr ≥ s.size) ∧
    (exec (.getWord addr) s = .next { s with outcome := some (.error .addressOutOfRange) } ↔
      addr < 0 ∨ addr + 4 > s.size) ∧
    (exec (.storeByte addr value) s = .next { s with outcome := some (.error .addressOutOfRange) } ↔
      addr < 0 ∨ addr ≥ s.size ∨ (s.setup = false ∧ addr < s.readBound)) ∧
    (exec (.storeWord addr value) s = .next { s with outcome := some (.error .addressOutOfRange) } ↔
      addr < 0 ∨ addr + 4 > s.size ∨ (s.setup = false ∧ addr < s.readBound)) ∧
    (exec (.storeByte addr value) s = .next { s with outcome := some (.error .valueOutOfRange) } ↔
      ¬(addr < 0 ∨ addr ≥ s.size ∨ (s.setup = false ∧ addr < s.readBound)) ∧ (value < 0 ∨ value > 255)) ∧
    (exec (.storeWord addr value) s = .next { s with outcome := some (.error .valueOutOfRange) } ↔
      ¬(addr < 0 ∨ addr + 4 > s.size ∨ (s.setup = false ∧ addr < s.readBound)) ∧
        (value < 0 ∨ value > 4294967295)) ∧
    exec (.getByte addr) s ≠ .next { s with outcome := some (.error .valueOutOfRange) } ∧
    exec (.getWord addr) s ≠ .next { s with outcome := some (.error .valueOutOfRange) }

/-! ### All operations -/

/-- 60_exceptions.md section 4 (decision D11, log 11): an operation that ends in an error changes no state. -/
def Obligations.FailedOperationChangesNothing : Prop :=
  ∀ (i : Instr) (s t : State) (k : ErrorKind), exec i s = .next t → t.outcome = some (.error k) →
    t = { s with outcome := some (.error k) }

/-- 60_exceptions.md section 1 (the table of error kinds; decision D8 for FieldOverflow): which operation can end in which
error; every other operation can end in none. -/
def Obligations.ErrorKindsByOperation : Prop :=
  ∀ (i : Instr) (s t : State) (k : ErrorKind), exec i s = .next t → t.outcome = some (.error k) →
    match k with
    | .addressOutOfRange =>
        (∃ a, i = .getByte a) ∨ (∃ a, i = .getWord a) ∨ (∃ a v, i = .storeByte a v) ∨ (∃ a v, i = .storeWord a v)
    | .valueOutOfRange => (∃ a v, i = .storeByte a v) ∨ (∃ a v, i = .storeWord a v)
    | .malformedPacket => ∃ b, i = .decode b
    | .fieldOverflow => ∃ n v0 v1 v2 v3, i = .makeRegStore n v0 v1 v2 v3

/-- 00_scope.md R5: outside the memory family `state' = state`, and the outcome depends on the operands alone: it is one and
the same in every state. It covers the packet kinds too (log 3). -/
def Obligations.PureOperationsNeitherReadNorWriteState : Prop :=
  ∀ i : Instr, i.isMemoryOp = false → ∃ o : Response, ∀ s : State, exec i s = .next { s with outcome := some o }

/-- 20_memory.md R48: the reads change no state, and a store changes only the addressed cells: not the size, the bound, the
lifecycle, the host's requests or any other cell. -/
def Obligations.ReadsChangeNothingStoresOnlyTheirCells : Prop :=
  (∀ (addr : Int) (s : State), ∀ i ∈ [Instr.getByte addr, Instr.getWord addr, Instr.dump], ∃ o : Response,
      exec i s = .next { s with outcome := some o }) ∧
    (∀ (addr value : Int) (s : State), ∃ (m : Memory) (o : Response),
      exec (.storeByte addr value) s = .next { s with bytes := m, outcome := some o } ∧
        ∀ a : Nat, (a : Int) ≠ addr → Memory.read m a = Memory.read s.bytes a) ∧
    (∀ (addr value : Int) (s : State), ∃ (m : Memory) (o : Response),
      exec (.storeWord addr value) s = .next { s with bytes := m, outcome := some o } ∧
        ∀ a : Nat, (a : Int) < addr ∨ addr + 4 ≤ a → Memory.read m a = Memory.read s.bytes a)

/-- 10_state.md R28: creation enters SETUP; `close_setup` enters OPERATIONAL from either state; no other operation, successful
or failing, changes the lifecycle, and none changes the two constants. -/
def Obligations.LifecycleChangesOnlyByCloseSetup : Prop :=
  (∀ (memSize readBound : Int) (t : State), State.create memSize readBound = .next t → t.setup = true) ∧
    ∀ (i : Instr) (s t : State), exec i s = .next t →
      t.setup = (if i = .closeSetup then false else s.setup) ∧ t.size = s.size ∧ t.readBound = s.readBound

/-- 60_exceptions.md section 4: an outcome is not latched. What an operation does in no way depends on the outcome of the
operation before it. -/
def Obligations.OutcomesAreNotLatched : Prop :=
  ∀ (i : Instr) (s : State) (o : Option Response), exec i { s with outcome := o } = exec i s

/-- 70_reset_and_hazards.md section 4, 60_exceptions.md section 4: no operation can fail to terminate or stop the block. Each
completes with an outcome, and the host's further requests are untouched. -/
def Obligations.EveryOperationCompletes : Prop :=
  ∀ (i : Instr) (s : State), ∃ (t : State) (o : Response),
    exec i s = .next t ∧ t.outcome = some o ∧ t.requests = s.requests

/-- 10_state.md, the write-permission invariant (the spec derives it): from any state in OPERATIONAL mode, whatever the host
presents, after any number of steps the mode is OPERATIONAL and no protected byte has changed. -/
def Obligations.WritePermissionInvariant : Prop :=
  ∀ (k : Nat) (s t : State), s.setup = false → Host.Core.run core k s = .next t → s.Guarded t

/-- 10_state.md, the state invariants (the spec derives them): every step keeps them, and keeps the two constants. -/
def Obligations.StepKeepsTheInvariant : Prop :=
  ∀ s t : State, s.Inv → step s = .next t → t.Inv ∧ t.size = s.size ∧ t.readBound = s.readBound

/-- Creation, and State.reset in particular, meets the invariants; State.reset is the creation with the parameters of log
4. -/
def Obligations.CreationMeetsTheInvariant : Prop :=
  (∀ (memSize readBound : Int) (t : State), State.create memSize readBound = .next t → t.Inv) ∧
    State.reset.Inv ∧ State.create Config.memSize Config.readBound = .next State.reset

/-- 10_state.md section 6: the value of every piece of state after reset, for all parameters `MEM_SIZE > READ_BOUND ≥ 0`; no
error is pending and nothing is presented. The last two are said of the model's own fields (log 1, log 2, DESIGN CHOICEs),
and that reset is the creation is decision D13 (log 13). -/
def Obligations.StateAfterReset : Prop :=
  ∀ memSize readBound : Int, 0 ≤ readBound → readBound < memSize → ∃ t : State,
    State.create memSize readBound = .next t ∧ (t.size : Int) = memSize ∧ (t.readBound : Int) = readBound ∧
      t.setup = true ∧ (∀ a : Nat, Memory.read t.bytes a = 0) ∧ t.outcome = none ∧ t.requests = []

/-- 70_reset_and_hazards.md section 1 (decision D13, log 13): a creation with `MEM_SIZE ≤ READ_BOUND` or `READ_BOUND < 0` is
refused. -/
def Obligations.IllegalCreationIsRefused : Prop :=
  ∀ memSize readBound : Int, readBound < 0 ∨ memSize ≤ readBound →
    State.create memSize readBound = .refused .illegalCreation

/-! ### Presenting operations -/

/-- A step runs the decoded instruction: when the host's next request decodes to `i`, the step is `exec i` in the state where
that request has been taken (log 1). -/
def Obligations.StepRunsThePresentedOperation : Prop :=
  ∀ (s : State) (r : Request) (rest : List Request) (i : Instr), s.requests = r :: rest → decode r = .ok i →
    step s = exec i { s with requests := rest }

/-- With nothing presented the block waits and holds its state (log 1). -/
def Obligations.StepWithoutRequestHolds : Prop :=
  ∀ s : State, s.requests = [] → step s = .next s

/-- 30_encoding.md section 3 (decisions D17, D9, D10; log 12): a reserved selector with any operands is refused, and so is an
operand outside its port: an index or register group above 3, a register list that is not four long, a verbatim word outside
`0 .. 2^32 - 1`. -/
def Obligations.IllegalRequestsAreRefused : Prop :=
  (∀ (op : BitVec 5) (args : List Operand) (s : State),
      op ∈ [0x00#5, 0x06#5, 0x07#5, 0x0C#5, 0x0D#5, 0x0E#5, 0x0F#5, 0x1E#5, 0x1F#5] →
      step (s.present (.op op args)) = .refused .illegalOperation) ∧
    (∀ (op : BitVec 5) (index : Int) (regs : List Int) (s : State), op = 0x12#5 ∨ op = 0x13#5 →
      (index < 0 ∨ index > 3 ∨ regs.length ≠ 4) →
      step (s.present (.op op [.int index, .ints regs])) = .refused .illegalOperation) ∧
    (∀ (index : Int) (regs : List Int) (s : State), (∃ r ∈ regs, r < 0 ∨ r > 4294967295) →
      step (s.present (.op 0x12#5 [.int index, .ints regs])) = .refused .illegalOperation) ∧
    (∀ (p : Packet) (regno r0 r1 r2 r3 : Int) (s : State),
      (regno < 0 ∨ regno > 3 ∨ ∃ r ∈ [r0, r1, r2, r3], r < 0 ∨ r > 4294967295) →
      step (s.present (.op 0x14#5 [.packet p, .int regno, .int r0, .int r1, .int r2, .int r3])) =
        .refused .illegalOperation) ∧
    (∀ (r0 r1 r2 r3 : Int) (s : State), (∃ r ∈ [r0, r1, r2, r3], r < 0 ∨ r > 4294967295) →
      step (s.present (.op 0x15#5 [.int r0, .int r1, .int r2, .int r3])) = .refused .illegalOperation) ∧
    ∀ (pc : Int) (s : State), pc < 0 ∨ pc > 4294967295 →
      step (s.present (.op 0x16#5 [.int pc])) = .refused .illegalOperation

/-- Decode and encode agree: decoding the encoding of any instruction, with every operand at every value, gives it back. -/
def Obligations.DecodeOfEncode : Prop :=
  ∀ i : Instr, decode (encode i) = .ok i

/-- One spelling for format OP: a selector with its operands that decodes is what its instruction encodes to. A wire buffer
of 20 bytes with an assigned code is its packet kind's encoding; one of another length or with an unassigned code is the
operand of `decode`, whose encoding is selector 0x03 and not the buffer. The clauses about wire buffers rest on the model's
choice (log 3, a DESIGN CHOICE) and on the place of the code in byte 0 (decision D3, log 5). -/
def Obligations.EncodeOfDecode : Prop :=
  (∀ (op : BitVec 5) (args : List Operand) (i : Instr), decode (.op op args) = .ok i → encode i = .op op args) ∧
    ∀ (b : Bytes) (i : Instr), decode (.wire b) = .ok i →
      ((b.length = 20 ∧ ∃ k : MessageCode, (byteAt b 0).toNat % 64 = Reference.codeNumber k) → encode i = .wire b) ∧
        ((b.length ≠ 20 ∨ ∀ k : MessageCode, (byteAt b 0).toNat % 64 ≠ Reference.codeNumber k) → i = .decode b)

/-- Words written out from the spec's encodings decode to the instructions they stand for: selectors of every family
(30_encoding.md section 3, the spec's numbering D2) and two packets of 43_constructors.md's worked examples (header
positions: decision D3). -/
def Obligations.WrittenOutRequestsDecode : Prop :=
  decode (.op 0b00001 [.bytes [0x01, 0x10, 0, 0]]) = .ok (.checksum [0x01, 0x10, 0, 0]) ∧
    decode (.op 0b00011 [.bytes [0x01]]) = .ok (.decode [0x01]) ∧
    decode (.op 0b01010 [.packet ⟨0, 31, 1, 0, 0xE0EF, 0, 0, 0, 0⟩]) =
      .ok (.hasStore ⟨0, 31, 1, 0, 0xE0EF, 0, 0, 0, 0⟩) ∧
    decode (.op 0b10010 [.int 3, .ints [0xDEADBEEF, 0, 0xFFFFFFFF, 0x12345678]]) =
      .ok (.makeRegSend 3 0xDEADBEEF 0 0xFFFFFFFF 0x12345678) ∧
    decode (.op 0b10011 [.int 2, .ints [-4294967296, 7, -3, 1]]) = .ok (.makeRegStore 2 (-4294967296) 7 (-3) 1) ∧
    decode (.op 0b11011 [.int (-4), .int 0]) = .ok (.storeWord (-4) 0) ∧
    decode (.op 0b11100 []) = .ok .closeSetup ∧
    decode (.wire [0x09, 0x10, 0xF6, 0xAE, 0, 0, 0, 1, 0, 0, 0, 0, 0, 0, 0, 0, 0, 0, 0, 0x40]) =
      .ok (.pktInstsReply ⟨0, 1, 0, 0xF6AE, 1, 0, 0, 0x40⟩) ∧
    decode (.wire [0x46, 0x15, 0xB9, 0x86, 0, 0, 0, 0x0A, 0, 0, 0, 0x14, 0, 0, 0, 0x1E, 0, 0, 0, 0x28]) =
      .ok (.pktRegSend2 ⟨1, 1, 5, 0xB986, 10, 20, 30, 40⟩)

/-! ### Packet kinds -/

/-- A packet of each of the fifteen kinds, handed to the block, is answered with the Packet that has that kind's code and the
other fields as found; nothing else changes (log 3). -/
def Obligations.PacketKindsAnswerTheirPacket : Prop :=
  ∀ (v : BitVec 2) (f q : BitVec 4) (c : BitVec 16) (w1 w2 w3 w4 : Word) (s : State),
    exec (.pktHello ⟨v, f, q, c, w1, w2, w3, w4⟩) s =
      .next { s with outcome := some (.ok (.packet ⟨v, 1, f, q, c, w1, w2, w3, w4⟩)) } ∧
    exec (.pktHelloReply ⟨v, f, q, c, w1, w2, w3, w4⟩) s =
      .next { s with outcome := some (.ok (.packet ⟨v, 2, f, q, c, w1, w2, w3, w4⟩)) } ∧
    exec (.pktRegSend0 ⟨v, f, q, c, w1, w2, w3, w4⟩) s =
      .next { s with outcome := some (.ok (.packet ⟨v, 4, f, q, c, w1, w2, w3, w4⟩)) } ∧
    exec (.pktRegSend1 ⟨v, f, q, c, w1, w2, w3, w4⟩) s =
      .next { s with outcome := some (.ok (.packet ⟨v, 5, f, q, c, w1, w2, w3, w4⟩)) } ∧
    exec (.pktRegSend2 ⟨v, f, q, c, w1, w2, w3, w4⟩) s =
      .next { s with outcome := some (.ok (.packet ⟨v, 6, f, q, c, w1, w2, w3, w4⟩)) } ∧
    exec (.pktRegSend3 ⟨v, f, q, c, w1, w2, w3, w4⟩) s =
      .next { s with outcome := some (.ok (.packet ⟨v, 7, f, q, c, w1, w2, w3, w4⟩)) } ∧
    exec (.pktInsts ⟨v, f, q, c, w1, w2, w3, w4⟩) s =
      .next { s with outcome := some (.ok (.packet ⟨v, 8, f, q, c, w1, w2, w3, w4⟩)) } ∧
    exec (.pktInstsReply ⟨v, f, q, c, w1, w2, w3, w4⟩) s =
      .next { s with outcome := some (.ok (.packet ⟨v, 9, f, q, c, w1, w2, w3, w4⟩)) } ∧
    exec (.pktTerminateReg0 ⟨v, f, q, c, w1, w2, w3, w4⟩) s =
      .next { s with outcome := some (.ok (.packet ⟨v, 10, f, q, c, w1, w2, w3, w4⟩)) } ∧
    exec (.pktRegStore0 ⟨v, f, q, c, w1, w2, w3, w4⟩) s =
      .next { s with outcome := some (.ok (.packet ⟨v, 12, f, q, c, w1, w2, w3, w4⟩)) } ∧
    exec (.pktRegStore1 ⟨v, f, q, c, w1, w2, w3, w4⟩) s =
      .next { s with outcome := some (.ok (.packet ⟨v, 13, f, q, c, w1, w2, w3, w4⟩)) } ∧
    exec (.pktRegStore2 ⟨v, f, q, c, w1, w2, w3, w4⟩) s =
      .next { s with outcome := some (.ok (.packet ⟨v, 14, f, q, c, w1, w2, w3, w4⟩)) } ∧
    exec (.pktRegStore3 ⟨v, f, q, c, w1, w2, w3, w4⟩) s =
      .next { s with outcome := some (.ok (.packet ⟨v, 15, f, q, c, w1, w2, w3, w4⟩)) } ∧
    exec (.pktLoadReply ⟨v, f, q, c, w1, w2, w3, w4⟩) s =
      .next { s with outcome := some (.ok (.packet ⟨v, 16, f, q, c, w1, w2, w3, w4⟩)) } ∧
    exec (.pktAck ⟨v, f, q, c, w1, w2, w3, w4⟩) s =
      .next { s with outcome := some (.ok (.packet ⟨v, 31, f, q, c, w1, w2, w3, w4⟩)) }

/-- 30_encoding.md section 2 with decision D3: a 20-byte buffer is a packet of a kind exactly when the low six bits of its
first byte are that kind's number; no other byte takes part. -/
def Obligations.MessageCodeSelectsTheKind : Prop :=
  ∀ (b : Bytes) (k : MessageCode), b.length = 20 →
    ((∃ f : PacketBody, decode (.wire b) = .ok (k.toInstr f)) ↔ (byteAt b 0).toNat % 64 = Reference.codeNumber k)

/-- A buffer handed over from the wire is, whatever its length and code, what `decode` of that buffer is: an unassigned code
is carried unchanged (decision D6, log 9), a wrong length is MalformedPacket. -/
def Obligations.WireBufferMeansDecode : Prop :=
  ∀ (b : Bytes) (s : State), ∃ i : Instr, decode (.wire b) = .ok i ∧ exec i s = exec (.decode b) s

/-- 30_encoding.md section 1, the packet as one 160-bit number `W` with the version at bits 159:158 and instruction_4 at bits
31:0: what `encode` gives is the number of the fields at those places, what `decode` reads from a number's bytes are the
fields at those places, and the code at bits 157:152 selects the packet kind. The header positions are decision D3 (log 5);
the last clause rests on log 3. -/
def Obligations.PacketNumberPlacesEveryField : Prop :=
  (∀ (p : Packet) (s : State), ∃ b : Bytes,
      exec (.encode p) s = .next { s with outcome := some (.ok (.bytes b)) } ∧
        b.length = 20 ∧
        Reference.bigEndian b =
          2 ^ 158 * p.version.toNat + 2 ^ 152 * p.messageCode.toNat + 2 ^ 148 * p.flags.toNat +
            2 ^ 144 * p.aSeqNum.toNat + 2 ^ 128 * p.checksum.toNat + 2 ^ 96 * p.instruction1.toNat +
            2 ^ 64 * p.instruction2.toNat + 2 ^ 32 * p.instruction3.toNat + p.instruction4.toNat) ∧
    (∀ (w : BitVec 160) (s : State), Reference.bigEndian (numberBytes w) = w.toNat ∧ ∃ p : Packet,
      exec (.decode (numberBytes w)) s = .next { s with outcome := some (.ok (.packet p)) } ∧
        packetNumber p = w ∧
        p.version.toNat = w.toNat / 2 ^ 158 ∧
        p.messageCode.toNat = w.toNat / 2 ^ 152 % 2 ^ 6 ∧
        p.flags.toNat = w.toNat / 2 ^ 148 % 2 ^ 4 ∧
        p.aSeqNum.toNat = w.toNat / 2 ^ 144 % 2 ^ 4 ∧
        p.checksum.toNat = w.toNat / 2 ^ 128 % 2 ^ 16 ∧
        p.instruction1.toNat = w.toNat / 2 ^ 96 % 2 ^ 32 ∧
        p.instruction2.toNat = w.toNat / 2 ^ 64 % 2 ^ 32 ∧
        p.instruction3.toNat = w.toNat / 2 ^ 32 % 2 ^ 32 ∧
        p.instruction4.toNat = w.toNat % 2 ^ 32) ∧
    ∀ (w : BitVec 160) (k : MessageCode),
      (∃ f : PacketBody, decodeNumber w = .ok (k.toInstr f)) ↔ w.toNat / 2 ^ 152 % 2 ^ 6 = Reference.codeNumber k
end

