-- ==== Sys2Proof/Laws/PerInstr.lean ====
section
/-! SUPPORT. The per-instruction family Selector: the encoded form of each instruction carries the fixed bits of its row of
spec/opcode_table.json (30_encoding.md R79; 45_message_codes.md R160). -/

namespace Sys2Proof.Laws

/-- A PKT row's match value (mask 0x3F00) for a wire buffer's header word (45_message_codes.md R160). -/
def Selector.WireMatches (r : Request) (pattern : BitVec 16) : Prop :=
  ∃ b, r = .wire b ∧ be16At b 0 &&& 0x3F00#16 = pattern

/-- An OP row's match value (mask 0x1F) for a selector. -/
def Selector.OpMatches (r : Request) (pattern : BitVec 5) : Prop := ∃ args, r = .op pattern args

/-- The encoded instruction carries its row's fixed bits. -/
def Selector.Statement : Instr → Prop
  | i@(.checksum _) => Selector.OpMatches (encode i) 0x01#5
  | i@(.encode _) => Selector.OpMatches (encode i) 0x02#5
  | i@(.decode _) => Selector.OpMatches (encode i) 0x03#5
  | i@(.setChecksum _) => Selector.OpMatches (encode i) 0x04#5
  | i@(.verifyChecksum _) => Selector.OpMatches (encode i) 0x05#5
  | i@(.isHello _) => Selector.OpMatches (encode i) 0x08#5
  | i@(.hasAck _) => Selector.OpMatches (encode i) 0x09#5
  | i@(.hasStore _) => Selector.OpMatches (encode i) 0x0A#5
  | i@(.hasPc _) => Selector.OpMatches (encode i) 0x0B#5
  | .makeHello => Selector.OpMatches (encode .makeHello) 0x10#5
  | .makeHelloReply => Selector.OpMatches (encode .makeHelloReply) 0x11#5
  | i@(.makeRegSend _ _ _ _ _) => Selector.OpMatches (encode i) 0x12#5
  | i@(.makeRegStore _ _ _ _ _) => Selector.OpMatches (encode i) 0x13#5
  | i@(.registerPacket _ _ _ _ _ _) => Selector.OpMatches (encode i) 0x14#5
  | i@(.makeInstructionPacket _ _ _ _) => Selector.OpMatches (encode i) 0x15#5
  | i@(.makePcPacket _) => Selector.OpMatches (encode i) 0x16#5
  | .makeAckPacket => Selector.OpMatches (encode .makeAckPacket) 0x17#5
  | i@(.getByte _) => Selector.OpMatches (encode i) 0x18#5
  | i@(.getWord _) => Selector.OpMatches (encode i) 0x19#5
  | i@(.storeByte _ _) => Selector.OpMatches (encode i) 0x1A#5
  | i@(.storeWord _ _) => Selector.OpMatches (encode i) 0x1B#5
  | .closeSetup => Selector.OpMatches (encode .closeSetup) 0x1C#5
  | .dump => Selector.OpMatches (encode .dump) 0x1D#5
  | i@(.pktHello _) => Selector.WireMatches (encode i) 0x0100#16
  | i@(.pktHelloReply _) => Selector.WireMatches (encode i) 0x0200#16
  | i@(.pktRegSend0 _) => Selector.WireMatches (encode i) 0x0400#16
  | i@(.pktRegSend1 _) => Selector.WireMatches (encode i) 0x0500#16
  | i@(.pktRegSend2 _) => Selector.WireMatches (encode i) 0x0600#16
  | i@(.pktRegSend3 _) => Selector.WireMatches (encode i) 0x0700#16
  | i@(.pktInsts _) => Selector.WireMatches (encode i) 0x0800#16
  | i@(.pktInstsReply _) => Selector.WireMatches (encode i) 0x0900#16
  | i@(.pktTerminateReg0 _) => Selector.WireMatches (encode i) 0x0A00#16
  | i@(.pktRegStore0 _) => Selector.WireMatches (encode i) 0x0C00#16
  | i@(.pktRegStore1 _) => Selector.WireMatches (encode i) 0x0D00#16
  | i@(.pktRegStore2 _) => Selector.WireMatches (encode i) 0x0E00#16
  | i@(.pktRegStore3 _) => Selector.WireMatches (encode i) 0x0F00#16
  | i@(.pktLoadReply _) => Selector.WireMatches (encode i) 0x1000#16
  | i@(.pktAck _) => Selector.WireMatches (encode i) 0x1F00#16

theorem Selector.be16_bytes16 (v : BitVec 16) : be16 (v.extractLsb' 8 8) (v.extractLsb' 0 8) = v := by
  apply BitVec.eq_of_getLsbD_eq
  intro i hi
  simp only [be16, BitVec.getLsbD_append, BitVec.getLsbD_extractLsb']
  by_cases h : i < 8
  · simp [h]
  · have h8 : i - 8 < 8 := by omega
    have e : 8 + (i - 8) = i := by omega
    simp [h, h8, e]

/-- The first two bytes of a packed packet are its header word. -/
theorem Selector.header_pack (p : Packet) : be16At (pack p) 0 = headerWord p := Selector.be16_bytes16 _

/-- The header word under the mask 0x3F00 is the message code in bits 13..8 (30_encoding.md R66). -/
theorem Selector.header_mask (p : Packet) :
    headerWord p &&& 0x3F00#16 = (p.messageCode.setWidth 16) <<< 8 := by
  apply BitVec.eq_of_getLsbD_eq
  intro i hi
  simp only [headerWord, BitVec.getLsbD_and, BitVec.getLsbD_append, BitVec.getLsbD_shiftLeft,
    BitVec.getLsbD_setWidth]
  have : i = 0 ∨ i = 1 ∨ i = 2 ∨ i = 3 ∨ i = 4 ∨ i = 5 ∨ i = 6 ∨ i = 7 ∨ i = 8 ∨ i = 9 ∨ i = 10 ∨ i = 11 ∨
      i = 12 ∨ i = 13 ∨ i = 14 ∨ i = 15 := by omega
  rcases this with rfl | rfl | rfl | rfl | rfl | rfl | rfl | rfl | rfl | rfl | rfl | rfl | rfl | rfl | rfl | rfl <;>
    simp

/-- A packet kind on the wire matches the value its code gives. -/
theorem Selector.kind_matches (k : MessageCode) (f : PacketBody) (pattern : BitVec 16)
    (h : (k.value.setWidth 16) <<< 8 = pattern) : Selector.WireMatches (encodeKind k f) pattern :=
  ⟨pack (f.toPacket k), rfl, by rw [Selector.header_pack, Selector.header_mask]; exact h⟩

theorem Selector.checksum (b : Bytes) : Selector.Statement (.checksum b) := ⟨_, rfl⟩
theorem Selector.encode (p : Packet) : Selector.Statement (.encode p) := ⟨_, rfl⟩
theorem Selector.decode (b : Bytes) : Selector.Statement (.decode b) := ⟨_, rfl⟩
theorem Selector.setChecksum (p : Packet) : Selector.Statement (.setChecksum p) := ⟨_, rfl⟩
theorem Selector.verifyChecksum (p : Packet) : Selector.Statement (.verifyChecksum p) := ⟨_, rfl⟩
theorem Selector.isHello (p : Packet) : Selector.Statement (.isHello p) := ⟨_, rfl⟩
theorem Selector.hasAck (p : Packet) : Selector.Statement (.hasAck p) := ⟨_, rfl⟩
theorem Selector.hasStore (p : Packet) : Selector.Statement (.hasStore p) := ⟨_, rfl⟩
theorem Selector.hasPc (p : Packet) : Selector.Statement (.hasPc p) := ⟨_, rfl⟩
theorem Selector.makeHello : Selector.Statement .makeHello := ⟨_, rfl⟩
theorem Selector.makeHelloReply : Selector.Statement .makeHelloReply := ⟨_, rfl⟩
theorem Selector.makeRegSend (index : BitVec 2) (r0 r1 r2 r3 : Word) : Selector.Statement (.makeRegSend index r0 r1 r2 r3) := ⟨_, rfl⟩
theorem Selector.makeRegStore (index : BitVec 2) (v0 v1 v2 v3 : Int) : Selector.Statement (.makeRegStore index v0 v1 v2 v3) := ⟨_, rfl⟩
theorem Selector.registerPacket (p : Packet) (regno : BitVec 2) (r0 r1 r2 r3 : Word) : Selector.Statement (.registerPacket p regno r0 r1 r2 r3) := ⟨_, rfl⟩
theorem Selector.makeInstructionPacket (i1 i2 i3 i4 : Word) : Selector.Statement (.makeInstructionPacket i1 i2 i3 i4) := ⟨_, rfl⟩
theorem Selector.makePcPacket (pc : Word) : Selector.Statement (.makePcPacket pc) := ⟨_, rfl⟩
theorem Selector.makeAckPacket : Selector.Statement .makeAckPacket := ⟨_, rfl⟩
theorem Selector.getByte (addr : Int) : Selector.Statement (.getByte addr) := ⟨_, rfl⟩
theorem Selector.getWord (addr : Int) : Selector.Statement (.getWord addr) := ⟨_, rfl⟩
theorem Selector.storeByte (addr value : Int) : Selector.Statement (.storeByte addr value) := ⟨_, rfl⟩
theorem Selector.storeWord (addr value : Int) : Selector.Statement (.storeWord addr value) := ⟨_, rfl⟩
theorem Selector.closeSetup : Selector.Statement .closeSetup := ⟨_, rfl⟩
theorem Selector.dump : Selector.Statement .dump := ⟨_, rfl⟩
theorem Selector.pktHello (body : PacketBody) : Selector.Statement (.pktHello body) :=
  Selector.kind_matches .hello body _ rfl
theorem Selector.pktHelloReply (body : PacketBody) : Selector.Statement (.pktHelloReply body) :=
  Selector.kind_matches .helloReply body _ rfl
theorem Selector.pktRegSend0 (body : PacketBody) : Selector.Statement (.pktRegSend0 body) :=
  Selector.kind_matches .regSend0 body _ rfl
theorem Selector.pktRegSend1 (body : PacketBody) : Selector.Statement (.pktRegSend1 body) :=
  Selector.kind_matches .regSend1 body _ rfl
theorem Selector.pktRegSend2 (body : PacketBody) : Selector.Statement (.pktRegSend2 body) :=
  Selector.kind_matches .regSend2 body _ rfl
theorem Selector.pktRegSend3 (body : PacketBody) : Selector.Statement (.pktRegSend3 body) :=
  Selector.kind_matches .regSend3 body _ rfl
theorem Selector.pktInsts (body : PacketBody) : Selector.Statement (.pktInsts body) :=
  Selector.kind_matches .insts body _ rfl
theorem Selector.pktInstsReply (body : PacketBody) : Selector.Statement (.pktInstsReply body) :=
  Selector.kind_matches .instsReply body _ rfl
theorem Selector.pktTerminateReg0 (body : PacketBody) : Selector.Statement (.pktTerminateReg0 body) :=
  Selector.kind_matches .terminateReg0 body _ rfl
theorem Selector.pktRegStore0 (body : PacketBody) : Selector.Statement (.pktRegStore0 body) :=
  Selector.kind_matches .regStore0 body _ rfl
theorem Selector.pktRegStore1 (body : PacketBody) : Selector.Statement (.pktRegStore1 body) :=
  Selector.kind_matches .regStore1 body _ rfl
theorem Selector.pktRegStore2 (body : PacketBody) : Selector.Statement (.pktRegStore2 body) :=
  Selector.kind_matches .regStore2 body _ rfl
theorem Selector.pktRegStore3 (body : PacketBody) : Selector.Statement (.pktRegStore3 body) :=
  Selector.kind_matches .regStore3 body _ rfl
theorem Selector.pktLoadReply (body : PacketBody) : Selector.Statement (.pktLoadReply body) :=
  Selector.kind_matches .loadReply body _ rfl
theorem Selector.pktAck (body : PacketBody) : Selector.Statement (.pktAck body) :=
  Selector.kind_matches .ack body _ rfl

end Sys2Proof.Laws
end

