-- ==== Sys2Proof/Laws/Codec.lean ====
section
/-! SUPPORT. The byte-order helpers and the fold read as numbers, and each undoing its opposite. -/

namespace Sys2Proof

/-- Two bytes as a big-endian number (00_scope.md R12). -/
theorem be16_toNat (hi lo : Byte) : (be16 hi lo).toNat = 256 * hi.toNat + lo.toNat := by
  simp only [be16, BitVec.toNat_append]
  rw [← Nat.shiftLeft_add_eq_or_of_lt lo.isLt, Nat.shiftLeft_eq]
  omega

/-- Four bytes as a big-endian number (00_scope.md R12). -/
theorem be32_toNat (a b c d : Byte) : (be32 a b c d).toNat = Reference.be32Value a b c d := by
  simp only [be32, BitVec.toNat_append, Reference.be32Value]
  rw [← Nat.shiftLeft_add_eq_or_of_lt b.isLt, ← Nat.shiftLeft_add_eq_or_of_lt c.isLt,
    ← Nat.shiftLeft_add_eq_or_of_lt d.isLt]
  simp only [Nat.shiftLeft_eq]
  omega

/-- The bytes of a word, as numbers. -/
theorem bytes32_eq (v : Word) :
    bytes32 v = [Reference.byteOfWord v.toNat 0, Reference.byteOfWord v.toNat 1,
      Reference.byteOfWord v.toNat 2, Reference.byteOfWord v.toNat 3] := by
  simp only [bytes32, Reference.byteOfWord, List.cons.injEq, and_true, ← BitVec.toNat_inj,
    BitVec.extractLsb'_toNat, BitVec.toNat_ofNat, Nat.shiftRight_eq_div_pow]
  simp

/-- The byte at each offset of a word. -/
theorem byteAt_bytes32 (v : Word) {j : Nat} (h : j < 4) :
    byteAt (bytes32 v) j = Reference.byteOfWord v.toNat j := by
  rw [bytes32_eq]
  interval_cases j <;> rfl

/-- The bytes of a word make up the word. -/
theorem be32_bytes32 (v : Word) :
    be32 (v.extractLsb' 24 8) (v.extractLsb' 16 8) (v.extractLsb' 8 8) (v.extractLsb' 0 8) = v := by
  rw [← BitVec.toNat_inj, be32_toNat]
  have h := v.isLt
  simp only [Reference.be32Value, BitVec.extractLsb'_toNat, Nat.shiftRight_eq_div_pow]
  omega

/-- The bytes of a 16-bit number made of two bytes are the two. -/
theorem bytes16_be16 (x y : Byte) : bytes16 (be16 x y) = [x, y] := by
  have hx := x.isLt
  have hy := y.isLt
  simp only [bytes16, List.cons.injEq, and_true, ← BitVec.toNat_inj, BitVec.extractLsb'_toNat, be16_toNat,
    Nat.shiftRight_eq_div_pow]
  constructor <;> omega

/-- The bytes of a word made of four bytes are the four. -/
theorem bytes32_be32 (x y z w : Byte) : bytes32 (be32 x y z w) = [x, y, z, w] := by
  have hx := x.isLt
  have hy := y.isLt
  have hz := z.isLt
  have hw := w.isLt
  simp only [bytes32, List.cons.injEq, and_true, ← BitVec.toNat_inj, BitVec.extractLsb'_toNat, be32_toNat,
    Reference.be32Value, Nat.shiftRight_eq_div_pow]
  refine ⟨?_, ?_, ?_, ?_⟩ <;> omega

/-- The number of a concatenation, the first part in the more significant position (00_scope.md R11). -/
theorem toNat_append_eq {m n : Nat} (x : BitVec m) (y : BitVec n) :
    (x ++ y).toNat = 2 ^ n * x.toNat + y.toNat := by
  rw [BitVec.toNat_append, ← Nat.shiftLeft_add_eq_or_of_lt y.isLt, Nat.shiftLeft_eq, Nat.mul_comm]

/-- The big-endian number of two buffers in a row. -/
theorem Reference.bigEndian_append (a b : Bytes) :
    Reference.bigEndian (a ++ b) = 256 ^ b.length * Reference.bigEndian a + Reference.bigEndian b := by
  induction a with
  | nil => simp [Reference.bigEndian]
  | cons x a ih =>
    rw [List.cons_append, Reference.bigEndian, ih, Reference.bigEndian, List.length_append, pow_add]
    ring

/-- The big-endian number of a 16-bit number's bytes is the number. -/
theorem Reference.bigEndian_bytes16 (v : BitVec 16) : Reference.bigEndian (bytes16 v) = v.toNat := by
  have h := v.isLt
  simp [bytes16, Reference.bigEndian, BitVec.extractLsb'_toNat, Nat.shiftRight_eq_div_pow]
  omega

/-- The big-endian number of a word's bytes is the word. -/
theorem Reference.bigEndian_bytes32 (v : Word) : Reference.bigEndian (bytes32 v) = v.toNat := by
  have h := v.isLt
  simp [bytes32, Reference.bigEndian, BitVec.extractLsb'_toNat, Nat.shiftRight_eq_div_pow]
  omega

/-- A packet number has 20 bytes (30_encoding.md R73). -/
theorem numberBytes_length (w : BitVec 160) : (numberBytes w).length = Config.packetBytes := rfl

/-- A packed packet is 20 bytes long (30_encoding.md R65). -/
theorem pack_length (p : Packet) : (pack p).length = Config.packetBytes := rfl

/-- The message code of an unpacked buffer is the low six bits of its first byte (30_encoding.md R66). -/
theorem unpack_messageCode (b : Bytes) : (unpack b).messageCode.toNat = (byteAt b 0).toNat % 64 := by
  have h := (byteAt b 1).isLt
  simp only [unpack, be16At, BitVec.extractLsb'_toNat, be16_toNat, Nat.shiftRight_eq_div_pow, Nat.zero_add] at *
  omega

/-- The name of a named code's value is that name, and no other code has it. -/
theorem MessageCode.ofValue?_eq_some {c : BitVec 6} {k : MessageCode} :
    MessageCode.ofValue? c = some k ↔ c = k.value := by
  revert c
  cases k <;> decide

/-- A packet whose code is a kind's is that kind's packet with its own other fields. -/
theorem Packet.body_toPacket {p : Packet} {k : MessageCode} (h : p.messageCode = k.value) :
    p.body.toPacket k = p := by
  cases p
  subst h
  rfl

namespace Machine

/-- `fold16` with division in place of the mask and the shift (00_scope.md R17). -/
theorem fold16_eq (s : Nat) : fold16 s = s % 65536 + s / 65536 := by
  unfold fold16
  rw [Nat.shiftRight_eq_div_pow]
  exact congrArg (· + s / 65536) (Nat.and_two_pow_sub_one_eq_mod s 16)

end Machine

end Sys2Proof
end

