-- ==== Sys2Proof/Laws/Decode.lean ====
section
/-! SUPPORT. What the operand ports and the operand forms of the decoder can do. -/

namespace Sys2Proof

/-- A 2-bit port accepts exactly the numbers of that width. -/
theorem portU2_eq_ok {v : Int} {w : BitVec 2} : portU2 v = .ok w ↔ v = w.toNat := by
  have hw := w.isLt
  unfold portU2
  constructor
  · intro h
    split at h
    · injection h with h
      subst h
      rw [BitVec.toNat_ofNat]
      omega
    · cases h
  · rintro rfl
    rw [if_pos (by omega)]
    simp

/-- A 32-bit port accepts exactly the numbers of that width. -/
theorem portU32_eq_ok {v : Int} {w : Word} : portU32 v = .ok w ↔ v = w.toNat := by
  have hw := w.isLt
  unfold portU32
  constructor
  · intro h
    split at h
    · injection h with h
      subst h
      rw [BitVec.toNat_ofNat]
      omega
    · cases h
  · rintro rfl
    rw [if_pos (by omega)]
    simp

/-- A 2-bit port rejects every other integer. -/
theorem portU2_eq_error {v : Int} (h : v < 0 ∨ v > 3) : portU2 v = .error .registerGroup := if_neg (by omega)

/-- A 32-bit port rejects every other integer. -/
theorem portU32_eq_error {v : Int} (h : v < 0 ∨ v > 4294967295) : portU32 v = .error .wordRange :=
  if_neg (by omega)

/-- Four ports accept exactly four numbers of that width. -/
theorem fourWords_eq_ok {f : Word → Word → Word → Word → Instr} {a b c d : Int} {i : Instr} :
    fourWords f a b c d = .ok i ↔
      ∃ w x y z : Word, a = w.toNat ∧ b = x.toNat ∧ c = y.toNat ∧ d = z.toNat ∧ i = f w x y z := by
  unfold fourWords
  constructor
  · intro h
    split at h
    · next hw hx hy hz =>
      injection h with h
      exact ⟨_, _, _, _, portU32_eq_ok.1 hw, portU32_eq_ok.1 hx, portU32_eq_ok.1 hy, portU32_eq_ok.1 hz, h.symm⟩
    · cases h
  · rintro ⟨w, x, y, z, ha, hb, hc, hd, rfl⟩
    rw [portU32_eq_ok.2 ha, portU32_eq_ok.2 hb, portU32_eq_ok.2 hc, portU32_eq_ok.2 hd]

/-- Four ports reject when one of the four values does not fit. -/
theorem fourWords_eq_error {f : Word → Word → Word → Word → Instr} {a b c d : Int}
    (h : ∃ r ∈ [a, b, c, d], r < 0 ∨ r > 4294967295) : fourWords f a b c d = .error .wordRange := by
  unfold fourWords
  split
  · next hw hx hy hz =>
    exfalso
    obtain ⟨r, hr, hbad⟩ := h
    have hbad := portU32_eq_error hbad
    simp only [List.mem_cons, List.not_mem_nil, or_false] at hr
    rcases hr with rfl | rfl | rfl | rfl <;> simp_all
  · rfl

/-! ### The operand form of each selector that has one of its own (30_encoding.md R79) -/

theorem decode_makeRegSend (args : List Operand) : decode (.op 0x12#5 args) = regSendArgs args := rfl

theorem decode_makeRegStore (args : List Operand) : decode (.op 0x13#5 args) = regStoreArgs args := rfl

theorem decode_registerPacket (args : List Operand) : decode (.op 0x14#5 args) = registerPacketArgs args := rfl

theorem decode_makeInstructionPacket (args : List Operand) :
    decode (.op 0x15#5 args) = wordsArgs .makeInstructionPacket args := rfl

theorem decode_makePcPacket (args : List Operand) : decode (.op 0x16#5 args) = wordArg .makePcPacket args := rfl

theorem decode_wire (b : Bytes) : decode (.wire b) = .ok (decodeWire b) := rfl

/-- The encoding of a packet kind is its packet's 20 bytes. -/
theorem encode_toInstr (k : MessageCode) (f : PacketBody) : encode (k.toInstr f) = .wire (pack (f.toPacket k)) := by
  cases k <;> rfl

end Sys2Proof
end

