-- ==== Sys2Proof/Laws/State.lean ====
section
/-! SUPPORT. One lemma per field per update of State, so that no later proof unfolds a record update. -/

namespace Sys2Proof.Machine

variable (s : State)

@[simp] theorem State.setOutcome_size (o : Response) : (s.setOutcome o).size = s.size := rfl
@[simp] theorem State.setOutcome_readBound (o : Response) : (s.setOutcome o).readBound = s.readBound := rfl
@[simp] theorem State.setOutcome_setup (o : Response) : (s.setOutcome o).setup = s.setup := rfl
@[simp] theorem State.setOutcome_bytes (o : Response) : (s.setOutcome o).bytes = s.bytes := rfl
@[simp] theorem State.setOutcome_requests (o : Response) : (s.setOutcome o).requests = s.requests := rfl
@[simp] theorem State.setOutcome_outcome (o : Response) : (s.setOutcome o).outcome = some o := rfl

@[simp] theorem State.setBytes_size (m : Memory) : (s.setBytes m).size = s.size := rfl
@[simp] theorem State.setBytes_readBound (m : Memory) : (s.setBytes m).readBound = s.readBound := rfl
@[simp] theorem State.setBytes_setup (m : Memory) : (s.setBytes m).setup = s.setup := rfl
@[simp] theorem State.setBytes_bytes (m : Memory) : (s.setBytes m).bytes = m := rfl
@[simp] theorem State.setBytes_requests (m : Memory) : (s.setBytes m).requests = s.requests := rfl
@[simp] theorem State.setBytes_outcome (m : Memory) : (s.setBytes m).outcome = s.outcome := rfl

@[simp] theorem State.setSetup_size (b : Bool) : (s.setSetup b).size = s.size := rfl
@[simp] theorem State.setSetup_readBound (b : Bool) : (s.setSetup b).readBound = s.readBound := rfl
@[simp] theorem State.setSetup_setup (b : Bool) : (s.setSetup b).setup = b := rfl
@[simp] theorem State.setSetup_bytes (b : Bool) : (s.setSetup b).bytes = s.bytes := rfl
@[simp] theorem State.setSetup_requests (b : Bool) : (s.setSetup b).requests = s.requests := rfl
@[simp] theorem State.setSetup_outcome (b : Bool) : (s.setSetup b).outcome = s.outcome := rfl

@[simp] theorem State.setRequests_size (r : List Request) : (s.setRequests r).size = s.size := rfl
@[simp] theorem State.setRequests_readBound (r : List Request) : (s.setRequests r).readBound = s.readBound := rfl
@[simp] theorem State.setRequests_setup (r : List Request) : (s.setRequests r).setup = s.setup := rfl
@[simp] theorem State.setRequests_bytes (r : List Request) : (s.setRequests r).bytes = s.bytes := rfl
@[simp] theorem State.setRequests_requests (r : List Request) : (s.setRequests r).requests = r := rfl
@[simp] theorem State.setRequests_outcome (r : List Request) : (s.setRequests r).outcome = s.outcome := rfl

@[simp] theorem State.present_requests (r : Request) : (s.present r).requests = r :: s.requests := rfl
@[simp] theorem State.present_size (r : Request) : (s.present r).size = s.size := rfl
@[simp] theorem State.present_readBound (r : Request) : (s.present r).readBound = s.readBound := rfl
@[simp] theorem State.present_setup (r : Request) : (s.present r).setup = s.setup := rfl
@[simp] theorem State.present_bytes (r : Request) : (s.present r).bytes = s.bytes := rfl
@[simp] theorem State.present_outcome (r : Request) : (s.present r).outcome = s.outcome := rfl

end Sys2Proof.Machine
end

