-- ==== Sys2Proof/Laws/Ops.lean ====
section
/-! SUPPORT. For each shared operation, once, everything it can do. -/

namespace Sys2Proof.Machine

/-- `finish` answers the next state whose outcome is the result, and no other. -/
theorem finish_next {r : Result} {s t : State} : finish r s = .next t ↔ t = s.setOutcome (.ok r) := by
  unfold finish
  constructor
  · intro h; injection h with h; exact h.symm
  · rintro rfl; rfl

/-- `raise` answers the next state whose outcome is the error, and no other. -/
theorem raise_next {k : ErrorKind} {s t : State} : raise k s = .next t ↔ t = s.setOutcome (.error k) := by
  unfold raise
  constructor
  · intro h; injection h with h; exact h.symm
  · rintro rfl; rfl

/-- A packet kind answers its Packet. -/
theorem receive_next {k : MessageCode} {f : PacketBody} {s t : State} :
    receive k f s = .next t ↔ t = s.setOutcome (.ok (.packet (f.toPacket k))) := finish_next

/-- A fetch takes the first request and changes nothing else. -/
theorem State.fetch?_eq_some {s t : State} {r : Request} :
    s.fetch? = some (r, t) ↔ ∃ rest, s.requests = r :: rest ∧ t = s.setRequests rest := by
  unfold State.fetch?
  cases h : s.requests with
  | nil => simp
  | cons q rest =>
    constructor
    · intro e
      cases e
      exact ⟨rest, rfl, rfl⟩
    · rintro ⟨rest', e, rfl⟩
      cases e
      rfl

/-- A fetch gives nothing exactly when the host presents nothing. -/
theorem State.fetch?_eq_none {s : State} : s.fetch? = none ↔ s.requests = [] := by
  unfold State.fetch?
  cases s.requests <;> simp

/-- A register value is placed at the default parameter exactly when its conversion fits 32 bits. -/
theorem placeRegister_fault {v : Int} {w : Word} :
    placeRegister .fault v = some w ↔
      WordValue (regstoreConvert v) ∧ w = BitVec.ofNat 32 (regstoreConvert v).toNat := by
  unfold placeRegister
  split
  · next h =>
    simp only [Option.some.injEq]
    exact ⟨fun e => ⟨h, e.symm⟩, fun e => e.2.symm⟩
  · next h => simp [h]

/-- The lifecycle bit is one of two, and a store in SETUP needs the range check only. -/
theorem State.storeAllowed_setup {s : State} (h : s.setup = true) (addr n : Int) :
    s.StoreAllowed addr n ↔ s.InRange addr n := by
  simp [State.StoreAllowed, h]

/-- In OPERATIONAL mode a store must start at or above the bound. -/
theorem State.storeAllowed_operational {s : State} (h : s.setup = false) (addr n : Int) :
    s.StoreAllowed addr n ↔ s.InRange addr n ∧ (s.readBound : Int) ≤ addr := by
  simp [State.StoreAllowed, h]

end Sys2Proof.Machine
end

