-- ==== Sys2Proof/Laws/Step.lean ====
section
/-! SUPPORT. Everything a step can do, once: wait, perform the presented operation, or refuse the request. -/

namespace Sys2Proof.Machine

/-- A step to a next state waited, or performed the operation that the first request names. -/
theorem step_next {s t : State} (h : step s = .next t) :
    (s.requests = [] ∧ t = s) ∨
      ∃ r rest i, s.requests = r :: rest ∧ decode r = .ok i ∧ exec i (s.setRequests rest) = .next t := by
  unfold step at h
  split at h
  · next e =>
    injection h with h
    exact .inl ⟨State.fetch?_eq_none.1 e, h.symm⟩
  · next r u e =>
    obtain ⟨rest, hr, rfl⟩ := State.fetch?_eq_some.1 e
    split at h
    · next i hd => exact .inr ⟨r, rest, i, hr, hd, h⟩
    · cases h

/-- A request that is no operation is refused when it is presented. -/
theorem step_present_error {s : State} {r : Request} {e : Reject} (h : decode r = .error e) :
    step (s.present r) = .refused .illegalOperation := by
  unfold step State.fetch?
  simp only [State.present_requests, h]

/-- A packet kind's instruction answers its packet. -/
theorem exec_toInstr (k : MessageCode) (f : PacketBody) (s : State) :
    exec (k.toInstr f) s = finish (.packet (f.toPacket k)) s := by
  cases k <;> rfl

end Sys2Proof.Machine
end

