-- ==== Sys2Proof/Tests/Slice0.lean ====
section
/-! SUPPORT. Tests on fixed values and, for each statement with hypotheses, a witness that meets them. The expected values
are those of 95_test_vectors.md (V-…, S…) or written out by hand from the rule named. -/

namespace Sys2Proof.Tests

open Sys2Proof.Machine

/-- What the host receives from a step to a next state. -/
def received (o : Host.Outcome State Fault Refusal) : Option Response :=
  match o with
  | .next t => t.outcome
  | _ => none

/-- The state after a step to a next state, the given one otherwise. -/
def after (s : State) (i : Instr) : State :=
  match exec i s with
  | .next t => t
  | _ => s

/-- The refusal of a step. -/
def refusal? (o : Host.Outcome State Fault Refusal) : Option Refusal :=
  match o with
  | .refused r => some r
  | _ => none

/-- What the decoder gives for a request that is an operation. -/
def decoded? (r : Request) : Option Instr :=
  match decode r with
  | .ok i => some i
  | .error _ => none

/-- `Memory(16, 8)` at reset (95_test_vectors.md section 2.5). -/
def small : State := { State.reset with size := 16, readBound := 8 }

/-- `Memory(16, 8)` in OPERATIONAL mode. -/
def closed : State := { small with setup := false }

/-- V-CD-2's packet, every header field non-zero and distinct. -/
def mixed : Packet := ⟨2, 16, 0xA, 0xC, 0x2F0B, 0x01020304, 0x05060708, 0x090A0B0C, 0x0D0E0F10⟩

/-- The 20 bytes of V-CD-2. -/
def mixedBytes : Bytes :=
  [0x90, 0xAC, 0x2F, 0x0B, 1, 2, 3, 4, 5, 6, 7, 8, 9, 10, 11, 12, 13, 14, 15, 16]

/-- V-CN-14's ACK packet. -/
def ackPacket : Packet := ⟨0, 31, 1, 0, 0xE0EF, 0, 0, 0, 0⟩

/-! ### Well-formedness -/

theorem test_wf_regStore_domain_ends :
    (Instr.makeRegStore 0 (-4294967296) 4294967295 (-1) 0).wf = true := by decide

theorem test_wf_refuses_value_above :
    (Instr.makeRegStore 0 4294967296 0 0 0).wf = false := by decide

theorem test_wf_refuses_value_below :
    (Instr.makeRegStore 0 0 0 0 (-4294967297)).wf = false := by decide

/-! ### Decoding: each selector of 30_encoding.md R79 written out in bits -/

theorem test_decode_checksum : decoded? (.op 0b00001 [.bytes [1, 2]]) = some (.checksum [1, 2]) := by decide
theorem test_decode_encode : decoded? (.op 0b00010 [.packet mixed]) = some (.encode mixed) := by decide
theorem test_decode_decode : decoded? (.op 0b00011 [.bytes [9]]) = some (.decode [9]) := by decide
theorem test_decode_setChecksum : decoded? (.op 0b00100 [.packet mixed]) = some (.setChecksum mixed) := by decide
theorem test_decode_verifyChecksum :
    decoded? (.op 0b00101 [.packet mixed]) = some (.verifyChecksum mixed) := by decide
theorem test_decode_isHello : decoded? (.op 0b01000 [.packet mixed]) = some (.isHello mixed) := by decide
theorem test_decode_hasAck : decoded? (.op 0b01001 [.packet mixed]) = some (.hasAck mixed) := by decide
theorem test_decode_hasStore : decoded? (.op 0b01010 [.packet mixed]) = some (.hasStore mixed) := by decide
theorem test_decode_hasPc : decoded? (.op 0b01011 [.packet mixed]) = some (.hasPc mixed) := by decide
theorem test_decode_makeHello : decoded? (.op 0b10000 []) = some .makeHello := by decide
theorem test_decode_makeHelloReply : decoded? (.op 0b10001 []) = some .makeHelloReply := by decide
theorem test_decode_makeRegSend :
    decoded? (.op 0b10010 [.int 3, .ints [1, 2, 3, 4294967295]]) = some (.makeRegSend 3 1 2 3 0xFFFFFFFF) := by decide
theorem test_decode_makeRegStore :
    decoded? (.op 0b10011 [.int 2, .ints [-4294967296, 7, -3, 1]]) =
      some (.makeRegStore 2 (-4294967296) 7 (-3) 1) := by decide
theorem test_decode_registerPacket :
    decoded? (.op 0b10100 [.packet mixed, .int 2, .int 10, .int 20, .int 30, .int 40]) =
      some (.registerPacket mixed 2 10 20 30 40) := by decide
theorem test_decode_makeInstructionPacket :
    decoded? (.op 0b10101 [.int 1, .int 2, .int 3, .int 4]) = some (.makeInstructionPacket 1 2 3 4) := by decide
theorem test_decode_makePcPacket : decoded? (.op 0b10110 [.int 64]) = some (.makePcPacket 64) := by decide
theorem test_decode_makeAckPacket : decoded? (.op 0b10111 []) = some .makeAckPacket := by decide
theorem test_decode_getByte : decoded? (.op 0b11000 [.int (-1)]) = some (.getByte (-1)) := by decide
theorem test_decode_getWord : decoded? (.op 0b11001 [.int 4]) = some (.getWord 4) := by decide
theorem test_decode_storeByte : decoded? (.op 0b11010 [.int 3, .int 256]) = some (.storeByte 3 256) := by decide
theorem test_decode_storeWord : decoded? (.op 0b11011 [.int 0, .int 9]) = some (.storeWord 0 9) := by decide
theorem test_decode_closeSetup : decoded? (.op 0b11100 []) = some .closeSetup := by decide
theorem test_decode_dump : decoded? (.op 0b11101 []) = some .dump := by decide

/-! ### Decoding: each packet kind's header bytes of 95_test_vectors.md section 2.6 -/

/-- The 18 bytes after the header: checksum 0xABCD and the words 1 to 4. -/
def wireTail : Bytes := [0xAB, 0xCD, 0, 0, 0, 1, 0, 0, 0, 2, 0, 0, 0, 3, 0, 0, 0, 4]

/-- The fields besides the code, for the header byte 0x10 (flags 1, sequence number 0). -/
def wireBody : PacketBody := ⟨0, 1, 0, 0xABCD, 1, 2, 3, 4⟩

theorem test_decode_pktHello : decoded? (.wire (0x01 :: 0x10 :: wireTail)) = some (.pktHello wireBody) := by decide
theorem test_decode_pktHelloReply :
    decoded? (.wire (0x02 :: 0x10 :: wireTail)) = some (.pktHelloReply wireBody) := by decide
theorem test_decode_pktRegSend0 :
    decoded? (.wire (0x04 :: 0x10 :: wireTail)) = some (.pktRegSend0 wireBody) := by decide
theorem test_decode_pktRegSend1 :
    decoded? (.wire (0x05 :: 0x10 :: wireTail)) = some (.pktRegSend1 wireBody) := by decide
theorem test_decode_pktRegSend2 :
    decoded? (.wire (0x06 :: 0x10 :: wireTail)) = some (.pktRegSend2 wireBody) := by decide
theorem test_decode_pktRegSend3 :
    decoded? (.wire (0x07 :: 0x10 :: wireTail)) = some (.pktRegSend3 wireBody) := by decide
theorem test_decode_pktInsts : decoded? (.wire (0x08 :: 0x10 :: wireTail)) = some (.pktInsts wireBody) := by decide
theorem test_decode_pktInstsReply :
    decoded? (.wire (0x09 :: 0x10 :: wireTail)) = some (.pktInstsReply wireBody) := by decide
theorem test_decode_pktTerminateReg0 :
    decoded? (.wire (0x0A :: 0x10 :: wireTail)) = some (.pktTerminateReg0 wireBody) := by decide
theorem test_decode_pktRegStore0 :
    decoded? (.wire (0x0C :: 0x10 :: wireTail)) = some (.pktRegStore0 wireBody) := by decide
theorem test_decode_pktRegStore1 :
    decoded? (.wire (0x0D :: 0x10 :: wireTail)) = some (.pktRegStore1 wireBody) := by decide
theorem test_decode_pktRegStore2 :
    decoded? (.wire (0x0E :: 0x10 :: wireTail)) = some (.pktRegStore2 wireBody) := by decide
theorem test_decode_pktRegStore3 :
    decoded? (.wire (0x0F :: 0x10 :: wireTail)) = some (.pktRegStore3 wireBody) := by decide
theorem test_decode_pktLoadReply :
    decoded? (.wire (0x10 :: 0x10 :: wireTail)) = some (.pktLoadReply wireBody) := by decide
theorem test_decode_pktAck : decoded? (.wire (0x1F :: 0x10 :: wireTail)) = some (.pktAck wireBody) := by decide

/-- An unassigned code (11) is carried by `decode` (decision D6). -/
theorem test_decode_unassigned_code :
    decoded? (.wire (0x0B :: 0x10 :: wireTail)) = some (.decode (0x0B :: 0x10 :: wireTail)) := by decide

/-- A buffer that is not 20 bytes long is `decode`'s operand (R78). -/
theorem test_decode_short_buffer : decoded? (.wire [0x01, 0x10]) = some (.decode [0x01, 0x10]) := by decide

/-! ### The packet as one number (R73): V-CD-2's 20 bytes written as one hexadecimal number -/

theorem test_packetNumber : packetNumber mixed = 0x90AC2F0B0102030405060708090A0B0C0D0E0F10#160 := by decide
theorem test_numberBytes : numberBytes 0x90AC2F0B0102030405060708090A0B0C0D0E0F10#160 = mixedBytes := by decide
/-- PKT_HELLO's pattern with every lettered bit 0: its eighth character is bit 152. -/
theorem test_decodeNumber_hello :
    (match decodeNumber (BitVec.ofNat 160 (2 ^ 152)) with
      | .ok i => some i
      | .error _ => none) = some (.pktHello ⟨0, 0, 0, 0, 0, 0, 0, 0⟩) := by decide

/-! ### Opcode-table words -/

theorem test_table_dump : decodeTableWord 8 0x1D = some .dump := by decide
theorem test_table_reserved : decodeTableWord 8 0x1E = none := by decide
theorem test_table_pktAck_header : decodeTableWord 16 0x1F00 = some (.pktAck ⟨0, 0, 0, 0, 0, 0, 0, 0⟩) := by decide
theorem test_table_pktAck_full :
    decodeTableWord 160 (0x1F10 + 0xABCD * 2 ^ 16 + 4 * 2 ^ 144) =
      some (.pktAck ⟨0, 1, 0, 0xABCD, 0, 0, 0, 4⟩) := by decide
theorem test_fetchWord_runs_first :
    received (step (State.reset.withFetchWord 8 0x10)) =
      some (.ok (.packet ⟨0, 1, 1, 0, 0xFEEF, 0, 0, 0, 0⟩)) := by decide

/-! ### Checksum (section 2.1) -/

theorem test_checksum_odd_tail_folds : -- V-CK-15
    received (exec (.checksum [0xFF, 0xFF, 0xFF, 0xFF, 0xFF]) small) = some (.ok (.u16 0x00FF)) := by decide
theorem test_checksum_known_example : -- V-CK-13
    received (exec (.checksum [0x00, 0x01, 0xF2, 0x03, 0xF4, 0xF5, 0xF6, 0xF7]) small) =
      some (.ok (.u16 0x220D)) := by decide
theorem test_reference_checksum : -- V-CK-20, the independent reading
    Reference.checksum [1, 2, 3, 4, 5, 6, 7, 8, 9, 10, 11, 12, 13, 14, 15, 16, 17, 18, 19] = 0x9BA5 := by decide

/-! ### Codec (section 2.2) -/

theorem test_encode_mixed : -- V-CD-2
    received (exec (.encode mixed) small) = some (.ok (.bytes mixedBytes)) := by decide
theorem test_decode_mixed : -- V-CD-3
    received (exec (.decode mixedBytes) small) = some (.ok (.packet mixed)) := by decide
theorem test_decode_21_bytes : -- V-CD-6
    received (exec (.decode (mixedBytes ++ [0])) small) = some (.error .malformedPacket) := by decide
theorem test_setChecksum_all_ones : -- V-CD-8
    received (exec (.setChecksum ⟨3, 63, 15, 15, 0x1234, 0xFFFFFFFF, 0xFFFFFFFF, 0xFFFFFFFF, 0xFFFFFFFF⟩) small) =
      some (.ok (.packet ⟨3, 63, 15, 15, 0, 0xFFFFFFFF, 0xFFFFFFFF, 0xFFFFFFFF, 0xFFFFFFFF⟩)) := by decide
theorem test_setChecksum_mixed : -- V-CD-9
    received (exec (.setChecksum { mixed with checksum := 0 }) small) = some (.ok (.packet mixed)) := by decide
theorem test_verifyChecksum_ones : -- V-CD-10
    received (exec (.verifyChecksum ⟨3, 63, 15, 15, 0xFFFF, 0xFFFFFFFF, 0xFFFFFFFF, 0xFFFFFFFF, 0xFFFFFFFF⟩) small) =
      some (.ok (.bool false)) := by decide
theorem test_verifyChecksum_mixed : -- V-CD-9
    received (exec (.verifyChecksum mixed) small) = some (.ok (.bool true)) := by decide

/-! ### Predicates (section 2.3) -/

theorem test_isHello_ignores_the_rest : -- V-PR-13
    received (exec (.isHello ⟨3, 1, 0, 0, 0x5555, 0, 0, 0, 0⟩) small) = some (.ok (.bool true)) := by decide
theorem test_hasAck_any_code : -- V-PR-7
    received (exec (.hasAck ⟨0, 5, 1, 0, 0, 0x80000001, 0, 0, 0⟩) small) = some (.ok (.bool true)) := by decide
theorem test_hasAck_ack_packet : -- V-PR-12
    received (exec (.hasAck ackPacket) small) = some (.ok (.bool false)) := by decide
theorem test_hasStore_bit_one : -- V-PR-4
    received (exec (.hasStore ⟨0, 8, 1, 0, 0, 2, 0, 0, 0⟩) small) = some (.ok (.bool true)) := by decide
theorem test_hasStore_only_bit_one : -- V-PR-6
    received (exec (.hasStore ⟨0, 31, 1, 0, 0, 0xFFFFFFFC, 0, 0, 0⟩) small) = some (.ok (.bool false)) := by decide
theorem test_hasPc_nine : -- V-PR-8
    received (exec (.hasPc ⟨0, 9, 1, 0, 0, 0, 0, 0, 0⟩) small) = some (.ok (.bool true)) := by decide
theorem test_hasPc_forty_one : -- V-PR-10
    received (exec (.hasPc ⟨0, 41, 1, 0, 0, 0, 0, 0, 0⟩) small) = some (.ok (.bool false)) := by decide

/-! ### Constructors (section 2.4) -/

theorem test_makeHello : -- V-CN-1
    received (exec .makeHello small) = some (.ok (.packet ⟨0, 1, 1, 0, 0xFEEF, 0, 0, 0, 0⟩)) := by decide
theorem test_makeHelloReply : -- V-CN-2
    received (exec .makeHelloReply small) = some (.ok (.packet ⟨0, 2, 1, 0, 0xFDEF, 0, 0, 0, 0⟩)) := by decide
theorem test_makeRegSend_group_three : -- V-CN-4
    received (exec (.makeRegSend 3 0xDEADBEEF 0 0xFFFFFFFF 0x12345678) small) =
      some (.ok (.packet ⟨0, 7, 1, 0, 0xF2A5, 0xDEADBEEF, 0, 0xFFFFFFFF, 0x12345678⟩)) := by decide
theorem test_makeRegStore_converts : -- V-CN-6
    received (exec (.makeRegStore 2 (-4294967296) 7 (-3) 1) small) =
      some (.ok (.packet ⟨0, 14, 1, 0, 0xF1E7, 1, 7, 0xFFFFFFFE, 1⟩)) := by decide
theorem test_makeRegStore_minus_one : -- V-CN-9
    received (exec (.makeRegStore 0 0 0 0 (-1)) small) = some (.error .fieldOverflow) := by decide
theorem test_place_minus_one_wrapped : -- V-CN-9b, the other value of the parameter
    placeRegister .wrapToZero (-1) = some 0 ∧ placeRegister .wrapToZero 4294967296 = none := by decide
theorem test_registerPacket_keeps_receiver : -- V-CN-15
    received (exec (.registerPacket ⟨1, 1, 0xF, 5, 0xABCD, 9, 9, 9, 9⟩ 2 10 20 30 40) small) =
      some (.ok (.packet ⟨1, 6, 1, 5, 0xB986, 10, 20, 30, 40⟩)) := by decide
theorem test_makeInstructionPacket : -- V-CN-10
    received (exec (.makeInstructionPacket 0x00500093 0x00A00113 0x002081B3 0x00000073) small) =
      some (.ok (.packet ⟨0, 8, 1, 0, 0x7313, 0x00500093, 0x00A00113, 0x002081B3, 0x00000073⟩)) := by decide
theorem test_makePcPacket : -- V-CN-13
    received (exec (.makePcPacket 0x1000) small) =
      some (.ok (.packet ⟨0, 9, 1, 0, 0xE6EE, 1, 0, 0, 0x1000⟩)) := by decide
theorem test_makeAckPacket : -- V-CN-14
    received (exec .makeAckPacket small) = some (.ok (.packet ackPacket)) := by decide

/-! ### Memory (section 2.5) -/

theorem test_getByte_last : -- V-M-1
    received (exec (.getByte 15) closed) = some (.ok (.u8 0)) := by decide
theorem test_getByte_past_end : -- V-M-2
    received (exec (.getByte 16) closed) = some (.error .addressOutOfRange) := by decide
theorem test_getWord_unaligned : -- V-M-4
    received (exec (.getWord 5) { small with bytes := [(4, 0x11), (5, 0x22), (6, 0x33), (7, 0x44)] }) =
      some (.ok (.u32 0x22334400)) := by decide
theorem test_getWord_size_minus_three : -- V-M-5
    received (exec (.getWord 13) small) = some (.error .addressOutOfRange) := by decide
theorem test_storeByte_zero_unlists : -- V-M-8
    (after { small with bytes := [(3, 0xFF)] } (.storeByte 3 0)).bytes = [] := by decide
theorem test_storeByte_address_first : -- V-M-18
    received (exec (.storeByte 0 256) closed) = some (.error .addressOutOfRange) := by decide
theorem test_storeWord_big_endian : -- V-M-17
    (after closed (.storeWord 8 0xAABBCCDD)).bytes = [(8, 0xAA), (9, 0xBB), (10, 0xCC), (11, 0xDD)] := by decide
theorem test_storeWord_start_protected : -- V-M-16
    received (exec (.storeWord 7 0) closed) = some (.error .addressOutOfRange) := by decide
theorem test_closeSetup : (after small .closeSetup).setup = false := by decide -- V-M-19
theorem test_closeSetup_idempotent : (after closed .closeSetup).setup = false := by decide -- V-M-20
theorem test_dump_runs : -- V-M-22, its bytes listed
    received (exec .dump { small with bytes := [(0, 0xCA), (1, 0xFE), (2, 0xBA), (3, 0xBE), (4, 0x7F), (6, 0x11),
      (7, 0x22), (8, 0xAA), (9, 0xBB), (10, 0xCC), (11, 0xDD), (12, 0xFF), (13, 0xFF), (14, 0xFF), (15, 0xFF)] }) =
      some (.ok (.runs [(0, [0xCA, 0xFE, 0xBA, 0xBE, 0x7F]),
        (6, [0x11, 0x22, 0xAA, 0xBB, 0xCC, 0xDD, 0xFF, 0xFF, 0xFF, 0xFF])])) := by decide
theorem test_dump_reset : received (exec .dump small) = some (.ok (.runs [])) := by decide -- V-M-21

/-! ### Packet kinds -/

theorem test_pktTerminateReg0 : -- section 2.6, the packet built by the host
    received (step (small.present (.wire [0x0A, 0x1F, 0xF5, 0xDD, 0, 0, 0, 3, 0, 0, 0, 0, 0, 0, 0, 0, 0, 0, 0, 0]))) =
      some (.ok (.packet ⟨0, 10, 1, 15, 0xF5DD, 3, 0, 0, 0⟩)) := by decide
theorem test_wire_short_is_malformed : -- program 4, line 15
    received (step (small.present (.wire [0x09, 0x10, 0xE6, 0xEE, 0, 0, 0, 1]))) =
      some (.error .malformedPacket) := by decide

/-! ### Requests without a meaning (section 2.7) -/

theorem test_reserved_selectors :
    ∀ op ∈ ([0x00, 0x06, 0x07, 0x0C, 0x0D, 0x0E, 0x0F, 0x1E, 0x1F] : List (BitVec 5)),
      refusal? (step (small.present (.op op []))) = some .illegalOperation := by decide
theorem test_index_four_refused :
    refusal? (step (small.present (.op 0x12 [.int 4, .ints [0, 0, 0, 0]]))) = some .illegalOperation := by decide
theorem test_wrong_operand_type_refused :
    refusal? (step (small.present (.op 0x01 [.int 0]))) = some .illegalOperation := by decide

/-! ### Witnesses: for each statement with hypotheses, values that meet them -/

theorem witness_ChecksumIgnoresWordOrder : List.Perm [0x1234#16, 0xFFFF#16] [0xFFFF#16, 0x1234#16] := by decide

theorem witness_RunningSumFitsSeventeenBits : (0xFFFF : Nat) ≤ 0xFFFF ∧ runningSum 0xFFFF [0xFF] = 0x1FEFF := by decide

theorem witness_ChecksumCornerCases :
    (([], 0xFFFF#16) : Bytes × BitVec 16) ∈ ([([], 0xFFFF)] : List (Bytes × BitVec 16)) := by decide

/-- The premise `length = 20` of DecodeReadsEveryField, PacketAndBytesRoundTrip and MessageCodeSelectsTheKind. -/
theorem witness_twenty_bytes : mixedBytes.length = 20 := by decide

theorem witness_MalformedPacketExactlyOnLength :
    exec (.encode mixed) small = .next { small with outcome := some (.ok (.bytes mixedBytes)) } := by rfl

theorem witness_PredicatesIgnoreOtherFields :
    (⟨0, 9, 1, 0, 1, 2, 3, 4, 5⟩ : Packet).messageCode = (⟨3, 9, 0, 7, 0, 0, 0, 0, 0⟩ : Packet).messageCode ∧
      (⟨0, 9, 1, 0, 1, 3, 3, 4, 5⟩ : Packet).instruction1 = (⟨3, 1, 0, 7, 0, 3, 0, 0, 0⟩ : Packet).instruction1 := by
  decide

/-- The four values of a `make_reg_store`: both ends of the values a field holds, for either sign. -/
theorem witness_ConstructorsPlaceTheirOperands :
    (((1#32).toNat : Int) = if (-4294967296 : Int) < 0 then 2 ^ 32 + 1 + (-4294967296) else -4294967296) ∧
      (((0xFFFFFFFF#32).toNat : Int) = if (-2 : Int) < 0 then 2 ^ 32 + 1 + (-2) else -2) ∧
      (((0#32).toNat : Int) = if (0 : Int) < 0 then 2 ^ 32 + 1 + 0 else 0) ∧
      (((0xFFFFFFFF#32).toNat : Int) = if (4294967295 : Int) < 0 then 2 ^ 32 + 1 + 4294967295 else 4294967295) := by
  decide

/-- Premises of FreshPacketsHaveTheProducerHeader and ConstructedPacketsSurviveTheWire. -/
theorem witness_constructed_packet :
    Instr.makeAckPacket.isFreshConstructor = true ∧ Instr.makeAckPacket.isConstructor = true ∧
      exec .makeAckPacket small = .next (after small .makeAckPacket) ∧
      (after small .makeAckPacket).outcome = some (.ok (.packet ackPacket)) :=
  ⟨by decide, by decide, by rfl, by decide⟩

/-- Both outcomes of ConstructorResultsAreChecksummed. -/
theorem witness_ConstructorResultsAreChecksummed :
    (Instr.makeRegStore 0 0 0 0 0).isConstructor = true ∧
      (received (exec (.makeRegStore 0 (-2) 0 0 0) small) =
        some (.ok (.packet ⟨0, 12, 1, 0, 0xF3EF, 0xFFFFFFFF, 0, 0, 0⟩))) ∧
      received (exec (.makeRegStore 0 (-1) 0 0 0) small) = some (.error .fieldOverflow) := by decide

/-- Both branches of MakeRegStoreOutcome at the ends of the field. -/
theorem witness_MakeRegStoreOutcome :
    (∀ v ∈ [(-4294967297 : Int), -2, 0, 4294967295], 0 ≤ regstoreConvert v ∧ regstoreConvert v ≤ 2 ^ 32 - 1) ∧
      ∀ v ∈ [(-4294967298 : Int), -1, 4294967296], ¬(0 ≤ regstoreConvert v ∧ regstoreConvert v ≤ 2 ^ 32 - 1) := by
  decide

/-- Both sides of FieldOverflowExactlyOnMinusOne. -/
theorem witness_FieldOverflowExactlyOnMinusOne :
    (Instr.makeRegStore 3 4294967295 (-4294967296) 0 (-1)).wf = true ∧
      (Instr.makeRegStore 3 4294967295 (-4294967296) 0 (-2)).wf = true := by decide

theorem witness_RegisterPacketKeepsTheReceiver : ackPacket.version = 0#2 ∧ ackPacket.aSeqNum = 0#4 := by decide

theorem witness_GetByteOutcome :
    (∀ a ∈ [(0 : Int), 15], 0 ≤ a ∧ a < small.size) ∧ ∀ a ∈ [(-1 : Int), 16], ¬(0 ≤ a ∧ a < small.size) := by decide

theorem witness_GetWordOutcome :
    (∀ a ∈ [(0 : Int), 12], 0 ≤ a ∧ a ≤ (small.size : Int) - 4) ∧
      ∀ a ∈ [(-1 : Int), 13], ¬(0 ≤ a ∧ a ≤ (small.size : Int) - 4) := by decide

/-- The four branches of StoreByteOutcome at their ends: out of range, protected, value, stored. -/
theorem witness_StoreByteOutcome :
    (∀ a ∈ [(-1 : Int), 16], ¬(0 ≤ a ∧ a < closed.size)) ∧
      (∀ a ∈ [(0 : Int), 7], (0 ≤ a ∧ a < closed.size) ∧ ¬(closed.setup = true ∨ (closed.readBound : Int) ≤ a)) ∧
      (∀ a ∈ [(8 : Int), 15], (0 ≤ a ∧ a < closed.size) ∧ (closed.setup = true ∨ (closed.readBound : Int) ≤ a)) ∧
      (∀ a ∈ [(0 : Int), 15], (0 ≤ a ∧ a < small.size) ∧ (small.setup = true ∨ (small.readBound : Int) ≤ a)) ∧
      (∀ v ∈ [(-1 : Int), 256], ¬(0 ≤ v ∧ v ≤ 255)) ∧ ∀ v ∈ [(0 : Int), 255], 0 ≤ v ∧ v ≤ 255 := by decide

/-- The four branches of StoreWordOutcome at their ends. -/
theorem witness_StoreWordOutcome :
    (∀ a ∈ [(-1 : Int), 13], ¬(0 ≤ a ∧ a + 3 < closed.size)) ∧
      (∀ a ∈ [(0 : Int), 7], (0 ≤ a ∧ a + 3 < closed.size) ∧ ¬(closed.setup = true ∨ (closed.readBound : Int) ≤ a)) ∧
      (∀ a ∈ [(8 : Int), 12], (0 ≤ a ∧ a + 3 < closed.size) ∧ (closed.setup = true ∨ (closed.readBound : Int) ≤ a)) ∧
      (∀ a ∈ [(0 : Int), 12], (0 ≤ a ∧ a + 3 < small.size) ∧ (small.setup = true ∨ (small.readBound : Int) ≤ a)) ∧
      (∀ v ∈ [(-1 : Int), 4294967296], ¬(0 ≤ v ∧ v ≤ 4294967295)) ∧
      ∀ v ∈ [(0 : Int), 4294967295], 0 ≤ v ∧ v ≤ 4294967295 := by decide

/-- The invariant of DumpGroupsTheListedCells and StepKeepsTheInvariant, with the last cell listed. -/
theorem witness_Inv : State.Inv { closed with bytes := [(0, 1), (1, 2), (15, 0xFF)] } := by decide

theorem witness_StoredWordReadsBack :
    exec (.storeWord 12 4294967295) closed = .next (after closed (.storeWord 12 4294967295)) ∧
      (after closed (.storeWord 12 4294967295)).outcome = some (.ok .unit) := ⟨by rfl, by decide⟩

/-- The states after each of the four byte stores of StoredBytesReadAsWord. -/
def stored (n : Nat) : State :=
  (List.range n).foldl (fun s j => after s (.storeByte (12 + j) (255 - j))) closed

theorem witness_StoredBytesReadAsWord :
    (exec (.storeByte 12 255) closed = .next (stored 1) ∧ (stored 1).outcome = some (.ok .unit)) ∧
      (exec (.storeByte (12 + 1) 254) (stored 1) = .next (stored 2) ∧ (stored 2).outcome = some (.ok .unit)) ∧
      (exec (.storeByte (12 + 2) 253) (stored 2) = .next (stored 3) ∧ (stored 3).outcome = some (.ok .unit)) ∧
      exec (.storeByte (12 + 3) 252) (stored 3) = .next (stored 4) ∧ (stored 4).outcome = some (.ok .unit) :=
  ⟨⟨by rfl, by decide⟩, ⟨by rfl, by decide⟩, ⟨by rfl, by decide⟩, by rfl, by decide⟩

/-- Premises of FailedOperationChangesNothing and ErrorKindsByOperation, each error kind once. -/
theorem witness_errors :
    received (exec (.getWord 13) small) = some (.error .addressOutOfRange) ∧
      received (exec (.storeByte 15 256) closed) = some (.error .valueOutOfRange) ∧
      received (exec (.decode []) small) = some (.error .malformedPacket) ∧
      received (exec (.makeRegStore 1 (-1) 0 0 0) small) = some (.error .fieldOverflow) := by decide

theorem witness_PureOperationsNeitherReadNorWriteState :
    (Instr.decode []).isMemoryOp = false ∧ (Instr.makeRegStore 0 (-1) 0 0 0).isMemoryOp = false := by decide

theorem witness_ReadsChangeNothing :
    Instr.dump ∈ [Instr.getByte 0, Instr.getWord 0, Instr.dump] ∧
      ((7 : Nat) : Int) < 8 ∧ (8 : Int) + 4 ≤ ((12 : Nat) : Int) := by decide

theorem witness_LifecycleChangesOnlyByCloseSetup :
    State.create 16 8 = .next small ∧ exec .closeSetup small = .next (after small .closeSetup) := ⟨by rfl, by rfl⟩

/-- A guarded state, and a run of two steps from it that stores above the bound. -/
theorem witness_WritePermissionInvariant :
    closed.setup = false ∧
      Host.Core.run core 2 (closed.present (.op 0x1A [.int 8, .int 1])) = .next (after closed (.storeByte 8 1)) :=
  ⟨by decide, by rfl⟩

theorem witness_StepKeepsTheInvariant :
    (closed.present (.op 0x1B [.int 12, .int 4294967295])).Inv ∧
      step (closed.present (.op 0x1B [.int 12, .int 4294967295])) = .next (after closed (.storeWord 12 4294967295)) :=
  ⟨by decide, by rfl⟩

theorem witness_CreationMeetsTheInvariant : State.create 1 0 = .next { State.reset with size := 1, readBound := 0 } := by
  rfl

theorem witness_StateAfterReset : (0 : Int) ≤ 0 ∧ (0 : Int) < 1 := by decide

theorem witness_IllegalCreationIsRefused : ((-1 : Int) < 0 ∨ (16 : Int) ≤ -1) ∧ ((8 : Int) < 0 ∨ (8 : Int) ≤ 8) := by
  decide

theorem witness_StepRunsThePresentedOperation :
    (small.present (.op 0x1C [])).requests = .op 0x1C [] :: [] ∧ decode (.op 0x1C []) = .ok .closeSetup :=
  ⟨by decide, by rfl⟩

theorem witness_StepWithoutRequestHolds : State.reset.requests = [] := by decide

/-- The premises of the six clauses of IllegalRequestsAreRefused, at the ends of the ports. -/
theorem witness_IllegalRequestsAreRefused :
    (0x1F#5 ∈ [0x00#5, 0x06#5, 0x07#5, 0x0C#5, 0x0D#5, 0x0E#5, 0x0F#5, 0x1E#5, 0x1F#5]) ∧
      ((-1 : Int) < 0 ∧ (4 : Int) > 3 ∧ [(0 : Int), 0, 0].length ≠ 4) ∧
      (∃ r ∈ [(0 : Int), 4294967296], r < 0 ∨ r > 4294967295) ∧
      (∃ r ∈ [(0 : Int), 0, 0, -1], r < 0 ∨ r > 4294967295) ∧
      ((0x12#5 = 0x12#5 ∨ 0x12#5 = 0x13#5) ∧ (-1 : Int) < 0 ∧ (4294967296 : Int) > 4294967295) := by decide

/-- The premises of EncodeOfDecode: a selector, a packet kind (code 16), an unassigned code (11) and lengths 19 and 21. -/
theorem witness_EncodeOfDecode :
    decode (.op 0x16 [.int 4294967295]) = .ok (.makePcPacket 0xFFFFFFFF) ∧
      (decode (.wire mixedBytes) =
          .ok (.pktLoadReply ⟨2, 0xA, 0xC, 0x2F0B, 0x01020304, 0x05060708, 0x090A0B0C, 0x0D0E0F10⟩) ∧
        mixedBytes.length = 20 ∧ (byteAt mixedBytes 0).toNat % 64 = Reference.codeNumber .loadReply) ∧
      (decode (.wire (0x0B :: 0x10 :: wireTail)) = .ok (.decode (0x0B :: 0x10 :: wireTail)) ∧
        ∀ k : MessageCode, (byteAt (0x0B :: 0x10 :: wireTail) 0).toNat % 64 ≠ Reference.codeNumber k) ∧
      (decode (.wire (0x01 :: wireTail)) = .ok (.decode (0x01 :: wireTail)) ∧ (0x01 :: wireTail).length = 19) ∧
      decode (.wire (mixedBytes ++ [0])) = .ok (.decode (mixedBytes ++ [0])) ∧ (mixedBytes ++ [0]).length = 21 :=
  ⟨by rfl, ⟨by rfl, by decide, by decide⟩, ⟨by rfl, fun k => by cases k <;> decide⟩, ⟨by rfl, by decide⟩, by rfl,
    by decide⟩

end Sys2Proof.Tests
end

section
/-! SUPPORT. What an access of the memory family (44_memory_ops.md) can do: the reads through their one range check, the
stores through their three checks in order; and the two statements of 20_memory.md that follow from it. -/

namespace Sys2Proof.Machine

/-! ### Reads -/

/-- What a read of `n` bytes answers, `r` being the value it finds: the Memory's size is all its check looks at
(20_memory.md R51). -/
def readResponse (size : Nat) (addr n : Int) (r : Result) : Response :=
  if 0 ≤ addr ∧ addr + n ≤ (size : Int) then .ok r else .error .addressOutOfRange

theorem readResponse_eq_error {size : Nat} {addr n : Int} {r : Result} {k : ErrorKind} :
    readResponse size addr n r = .error k ↔ ¬(0 ≤ addr ∧ addr + n ≤ (size : Int)) ∧ k = .addressOutOfRange := by
  unfold readResponse
  split
  · next h => simp [h]
  · next h => simp [h, eq_comm]

/-- The range check of a read followed by its two ends. -/
theorem finish_inRange_else_raise (s : State) (addr n : Int) (r : Result) :
    (if s.InRange addr n then finish r s else raise .addressOutOfRange s) =
      .next (s.setOutcome (readResponse s.size addr n r)) := by
  unfold readResponse
  split <;> rfl

theorem exec_getByte (addr : Int) (s : State) :
    exec (.getByte addr) s =
      .next (s.setOutcome (readResponse s.size addr 1 (.u8 (s.bytes.read addr.toNat)))) :=
  finish_inRange_else_raise ..

theorem exec_getWord (addr : Int) (s : State) :
    exec (.getWord addr) s =
      .next (s.setOutcome (readResponse s.size addr 4 (.u32 (s.bytes.readWord addr.toNat)))) :=
  finish_inRange_else_raise ..

theorem exec_dump (s : State) :
    exec .dump s = .next (s.setOutcome (.ok (.runs (s.bytes.runs s.size 0)))) := rfl

/-- Each read answers from the size and the buffer alone, and changes nothing. -/
theorem exec_read {addr : Int} {i : Instr} (hi : i ∈ [Instr.getByte addr, Instr.getWord addr, Instr.dump]) :
    ∃ f : Nat → Memory → Response, ∀ s, exec i s = .next (s.setOutcome (f s.size s.bytes)) := by
  simp only [List.mem_cons, List.not_mem_nil, or_false] at hi
  obtain rfl | rfl | rfl := hi
  · exact ⟨fun size m => readResponse size addr 1 (.u8 (m.read addr.toNat)), exec_getByte addr⟩
  · exact ⟨fun size m => readResponse size addr 4 (.u32 (m.readWord addr.toNat)), exec_getWord addr⟩
  · exact ⟨fun size m => .ok (.runs (m.runs size 0)), exec_dump⟩

/-- Two outcomes left in one state are told apart by the next state. -/
theorem next_setOutcome_inj {s : State} {o o' : Response} :
    (Host.Outcome.next (s.setOutcome o) : Host.Outcome State Fault Refusal) = .next { s with outcome := some o' } ↔
      o = o' := by
  simp [State.setOutcome]

/-! ### Stores -/

/-- A store of `n` bytes that leaves the buffer `m`, `fits` being its value check: the permission first, the value last
(60_exceptions.md R188). -/
def checkedStore (s : State) (addr n : Int) (fits : Prop) [Decidable fits] (m : Memory) :
    Host.Outcome State Fault Refusal :=
  if s.StoreAllowed addr n then if fits then finish .unit (s.setBytes m) else raise .valueOutOfRange s
  else raise .addressOutOfRange s

theorem exec_storeByte (addr value : Int) (s : State) :
    exec (.storeByte addr value) s = checkedStore s addr 1 (ByteValue value)
      (s.bytes.write addr.toNat (BitVec.ofNat 8 value.toNat)) := rfl

theorem exec_storeWord (addr value : Int) (s : State) :
    exec (.storeWord addr value) s = checkedStore s addr 4 (WordValue value)
      (s.bytes.writeWord addr.toNat (BitVec.ofNat 32 value.toNat)) := rfl

/-- The three ends of a store, each with the checks that lead to it. -/
theorem checkedStore_cases (s : State) (addr n : Int) (fits : Prop) [Decidable fits] (m : Memory) :
    (¬s.StoreAllowed addr n ∧ checkedStore s addr n fits m = .next (s.setOutcome (.error .addressOutOfRange))) ∨
    (s.StoreAllowed addr n ∧ ¬fits ∧
      checkedStore s addr n fits m = .next (s.setOutcome (.error .valueOutOfRange))) ∨
    (s.StoreAllowed addr n ∧ fits ∧
      checkedStore s addr n fits m = .next ((s.setBytes m).setOutcome (.ok .unit))) := by
  unfold checkedStore
  by_cases hallowed : s.StoreAllowed addr n
  · by_cases hfits : fits
    · exact .inr (.inr ⟨hallowed, hfits, by rw [if_pos hallowed, if_pos hfits, finish]⟩)
    · exact .inr (.inl ⟨hallowed, hfits, by rw [if_pos hallowed, if_neg hfits, raise]⟩)
  · exact .inl ⟨hallowed, by rw [if_neg hallowed, raise]⟩

/-- A store completes and changes the buffer at most; where its new buffer keeps the cells that satisfy `P`, so does the
store, whichever way it ends. The new buffer is only asked about for an address that is not negative. -/
theorem checkedStore_frame {P : Nat → Prop} {s : State} {addr n : Int} {fits : Prop} [Decidable fits] {m : Memory}
    (hm : 0 ≤ addr → ∀ a, P a → m.read a = s.bytes.read a) :
    ∃ (m' : Memory) (o : Response), checkedStore s addr n fits m = .next { s with bytes := m', outcome := some o } ∧
      ∀ a, P a → m'.read a = s.bytes.read a := by
  obtain ⟨-, h⟩ | ⟨-, -, h⟩ | ⟨⟨⟨haddr, -⟩, -⟩, -, h⟩ := checkedStore_cases s addr n fits m
  · exact ⟨s.bytes, _, h, fun _ _ => rfl⟩
  · exact ⟨s.bytes, _, h, fun _ _ => rfl⟩
  · exact ⟨m, _, h, hm haddr⟩

/-- What a write of a word leaves outside its four cells. -/
theorem Memory.read_writeWord_other (m : Memory) {a b : Nat} (v : Word) (h : b < a ∨ a + 4 ≤ b) :
    (m.writeWord a v).read b = m.read b :=
  Memory.read_writeBytes_other (bytes32 v) m h

/-! ### 20_memory.md R51 and R48 -/

/-- Settles O35: `exec_read` gives one response whatever the lifecycle bit and the bound, and the one error of a read is
its failed range check. -/
theorem readsIgnoreTheLifecycle : Obligations.ReadsIgnoreTheLifecycle := by
  intro addr s
  refine ⟨fun setup readBound i hi => ?_, fun k => ⟨fun h => ?_, fun h => ?_, fun h => ?_⟩⟩
  · obtain ⟨f, hf⟩ := exec_read hi
    exact ⟨f s.size s.bytes, hf s, hf _⟩
  · rw [exec_getByte, next_setOutcome_inj, readResponse_eq_error] at h
    omega
  · rw [exec_getWord, next_setOutcome_inj, readResponse_eq_error] at h
    omega
  · rw [exec_dump, next_setOutcome_inj] at h
    cases h

/-- Settles O40: a read sets the outcome alone, and both stores are instances of the frame of `checkedStore`. -/
theorem readsChangeNothingStoresOnlyTheirCells : Obligations.ReadsChangeNothingStoresOnlyTheirCells := by
  refine ⟨fun addr s i hi => ?_, fun addr value s => ?_, fun addr value s => ?_⟩
  · obtain ⟨f, hf⟩ := exec_read hi
    exact ⟨_, hf s⟩
  · rw [exec_storeByte]
    exact checkedStore_frame fun haddr a ha => Memory.read_write_other _ _ (by omega)
  · rw [exec_storeWord]
    exact checkedStore_frame fun haddr a ha => Memory.read_writeWord_other _ _ (by omega)

end Sys2Proof.Machine
end

section
/-! SUPPORT. What a constructor (43_constructors.md) answers: a packet of given fields under its own checksum. Then the
R74 table of 30_encoding.md. -/

namespace Sys2Proof.Machine

/-! ### The constructors without a check of their own -/

theorem exec_makeHello (s : State) :
    exec .makeHello s = finish (.packet (build MessageCode.hello.value 0 0 0 0)) s := rfl

theorem exec_makeHelloReply (s : State) :
    exec .makeHelloReply s = finish (.packet (build MessageCode.helloReply.value 0 0 0 0)) s := rfl

theorem exec_makeRegSend (i : BitVec 2) (r0 r1 r2 r3 : Word) (s : State) :
    exec (.makeRegSend i r0 r1 r2 r3) s = finish (.packet (build (regSendCode i) r0 r1 r2 r3)) s := rfl

theorem exec_registerPacket (q : Packet) (n : BitVec 2) (r0 r1 r2 r3 : Word) (s : State) :
    exec (.registerPacket q n r0 r1 r2 r3) s =
      finish (.packet (withChecksum
        ⟨q.version, regSendCode n, producerFlags, q.aSeqNum, q.checksum, r0, r1, r2, r3⟩)) s := rfl

theorem exec_makeInstructionPacket (i1 i2 i3 i4 : Word) (s : State) :
    exec (.makeInstructionPacket i1 i2 i3 i4) s =
      finish (.packet (build MessageCode.insts.value i1 i2 i3 i4)) s := rfl

theorem exec_makePcPacket (pc : Word) (s : State) :
    exec (.makePcPacket pc) s = finish (.packet (build MessageCode.instsReply.value 1 0 0 pc)) s := rfl

theorem exec_makeAckPacket (s : State) :
    exec .makeAckPacket s = finish (.packet (build MessageCode.ack.value 0 0 0 0)) s := rfl

/-! ### `make_reg_store` -/

/-- The conversion with its modulus as R125 writes it. -/
theorem regstoreConvert_eq (v : Int) : regstoreConvert v = if v < 0 then 2 ^ 32 + 1 + v else v := by
  norm_num [regstoreConvert]

/-- A word whose number is the converted value is the word that is placed: 32 bits hold it. -/
theorem placeRegister_of_toNat_eq {v : Int} {w : Word} (h : (w.toNat : Int) = regstoreConvert v) :
    placeRegister .fault v = some w := by
  have hw := w.isLt
  rw [placeRegister_fault, ← h]
  exact ⟨by omega, by simp⟩

/-- `make_reg_store` once its four values are placed. -/
theorem exec_makeRegStore_of_placed (i : BitVec 2) {v0 v1 v2 v3 : Int} {w0 w1 w2 w3 : Word}
    (h0 : placeRegister .fault v0 = some w0) (h1 : placeRegister .fault v1 = some w1)
    (h2 : placeRegister .fault v2 = some w2) (h3 : placeRegister .fault v3 = some w3) (s : State) :
    exec (.makeRegStore i v0 v1 v2 v3) s = finish (.packet (build (regStoreCode i) w0 w1 w2 w3)) s := by
  simp only [exec, execMakeRegStore, Config.regstoreMinusOne, h0, h1, h2, h3]

/-! ### The fields of the packet -/

/-- `REG_SEND{i}` as a number: the sum does not wrap. -/
theorem regSendCode_toNat (i : BitVec 2) : (regSendCode i).toNat = 4 + i.toNat := by
  revert i; decide

/-- `REG_STORE{i}` as a number: the sum does not wrap. -/
theorem regStoreCode_toNat (i : BitVec 2) : (regStoreCode i).toNat = 12 + i.toNat := by
  revert i; decide

/-- Setting the checksum leaves the message code and the instruction words, whatever the other fields are. -/
theorem places_of_finish_withChecksum {o : Host.Outcome State Fault Refusal} {s : State} {version : BitVec 2}
    {code : BitVec 6} {flags aSeqNum : BitVec 4} {checksum : BitVec 16} {w1 w2 w3 w4 : Word} {n : Nat}
    (ho : o = finish (.packet (withChecksum ⟨version, code, flags, aSeqNum, checksum, w1, w2, w3, w4⟩)) s)
    (hcode : code.toNat = n) :
    ∃ p : Packet, o = .next { s with outcome := some (.ok (.packet p)) } ∧ p.messageCode.toNat = n ∧
      p.instruction1 = w1 ∧ p.instruction2 = w2 ∧ p.instruction3 = w3 ∧ p.instruction4 = w4 :=
  ⟨_, ho, hcode, rfl, rfl, rfl, rfl⟩

/-- Settles O17: each constructor answers a packet whose fields are its row of the R74 table, and its checksum changes
none of them; a value of `make_reg_store` whose conversion a word holds is placed as that word. -/
theorem constructorsPlaceTheirOperands : Obligations.ConstructorsPlaceTheirOperands := by
  intro s
  refine ⟨?hello, ?helloReply, fun i r0 r1 r2 r3 => ?regSend, fun i v0 v1 v2 v3 w0 w1 w2 w3 h0 h1 h2 h3 => ?regStore,
    fun q n r0 r1 r2 r3 => ?registerPacket, fun i1 i2 i3 i4 => ?insts, fun pc => ?pc, ?ack⟩
  case hello => exact places_of_finish_withChecksum (exec_makeHello s) rfl
  case helloReply => exact places_of_finish_withChecksum (exec_makeHelloReply s) rfl
  case regSend => exact places_of_finish_withChecksum (exec_makeRegSend i r0 r1 r2 r3 s) (regSendCode_toNat i)
  case regStore =>
    rw [← regstoreConvert_eq] at h0 h1 h2 h3
    have hexec := exec_makeRegStore_of_placed i (placeRegister_of_toNat_eq h0) (placeRegister_of_toNat_eq h1)
      (placeRegister_of_toNat_eq h2) (placeRegister_of_toNat_eq h3) s
    exact places_of_finish_withChecksum hexec (regStoreCode_toNat i)
  case registerPacket =>
    have hcode : (regSendCode n).toNat = n.toNat + 4 := (regSendCode_toNat n).trans (Nat.add_comm ..)
    exact places_of_finish_withChecksum (exec_registerPacket q n r0 r1 r2 r3 s) hcode
  case insts => exact places_of_finish_withChecksum (exec_makeInstructionPacket i1 i2 i3 i4 s) rfl
  case pc => exact places_of_finish_withChecksum (exec_makePcPacket pc s) rfl
  case ack => exact places_of_finish_withChecksum (exec_makeAckPacket s) rfl

end Sys2Proof.Machine
end

section
/-! SUPPORT. The running sum of `checksum` (40_checksum.md R92) read over word indexes, as the pseudocode writes it, and
its agreement with the model's recursion over the buffer. -/

namespace Sys2Proof.Machine

/-! ### The pseudocode's sum over indexes -/

/-- Steps 1 and 2 of R92 from a sum already accumulated: the whole words by index, one fold after each addition. -/
def indexedWordSum (sum : Nat) (b : Bytes) : Nat :=
  (List.range (b.length / 2)).foldl (fun acc i => fold16 (acc + (be16At b (2 * i)).toNat)) sum

/-- Steps 1 to 3 of R92 from a sum already accumulated: the whole words, then the odd last byte as a high byte. -/
def indexedSum (sum : Nat) (b : Bytes) : Nat :=
  if b.length % 2 = 1 then indexedWordSum sum b + 256 * (byteAt b (b.length - 1)).toNat else indexedWordSum sum b

/-- Steps 4 and 5 of R92 on the indexed sum are the independent reading. -/
theorem reference_checksum_eq (b : Bytes) :
    Reference.checksum b = 65535 - fold16 (indexedSum 0 b) % 65536 := by
  simp only [Reference.checksum, indexedSum, indexedWordSum, be16At, be16_toNat, fold16_eq]

/-- A first word moves the offsets of the later bytes up by two. -/
theorem byteAt_cons_cons (b0 b1 : Byte) (rest : Bytes) (i : Nat) : byteAt (b0 :: b1 :: rest) (i + 2) = byteAt rest i := rfl

theorem be16At_cons_cons (b0 b1 : Byte) (rest : Bytes) (i : Nat) :
    be16At (b0 :: b1 :: rest) (2 * (i + 1)) = be16At rest (2 * i) := rfl

/-- The loop from a first word on: that word is added and folded, and the later indexes move down by one. -/
theorem indexedWordSum_cons_cons (sum : Nat) (b0 b1 : Byte) (rest : Bytes) :
    indexedWordSum sum (b0 :: b1 :: rest) = indexedWordSum (fold16 (sum + (be16 b0 b1).toNat)) rest := by
  have hwords : (b0 :: b1 :: rest).length / 2 = rest.length / 2 + 1 :=
    Nat.add_div_right rest.length Nat.two_pos
  unfold indexedWordSum
  rw [hwords, List.range_succ_eq_map, List.foldl_cons, List.foldl_map]
  simp only [Nat.succ_eq_add_one, be16At_cons_cons]
  rfl

theorem indexedSum_cons_cons (sum : Nat) (b0 b1 : Byte) (rest : Bytes) :
    indexedSum sum (b0 :: b1 :: rest) = indexedSum (fold16 (sum + (be16 b0 b1).toNat)) rest := by
  have hparity : (b0 :: b1 :: rest).length % 2 = rest.length % 2 := Nat.add_mod_right rest.length 2
  unfold indexedSum
  rw [hparity, indexedWordSum_cons_cons]
  split
  · next hodd =>
    have hlast : (b0 :: b1 :: rest).length - 1 = rest.length - 1 + 2 := by
      simp only [List.length_cons]
      omega
    rw [hlast, byteAt_cons_cons]
  · rfl

theorem indexedSum_singleton (sum : Nat) (b0 : Byte) : indexedSum sum [b0] = sum + 256 * b0.toNat := by
  simp [indexedSum, indexedWordSum, byteAt]

/-! ### The model's recursion and the indexes agree -/

/-- The recursion over the buffer adds what the loop over indexes adds, from every accumulated sum. -/
theorem runningSum_eq_indexedSum (sum : Nat) (b : Bytes) : runningSum sum b = indexedSum sum b := by
  induction sum, b using runningSum.induct with
  | case1 sum b0 b1 rest ih => rw [indexedSum_cons_cons, ← ih, runningSum]
  | case2 sum b0 => rw [runningSum, indexedSum_singleton, Nat.shiftLeft_eq, Nat.mul_comm]
  | case3 sum => rfl

/-- The mask of step 5 is the remainder. -/
theorem checksumOf_eq (b : Bytes) : checksumOf b = BitVec.ofNat 16 (65535 - fold16 (runningSum 0 b) % 65536) := by
  rw [checksumOf, Nat.and_two_pow_sub_one_eq_mod _ 16]

theorem checksumOf_eq_reference (b : Bytes) : checksumOf b = BitVec.ofNat 16 (Reference.checksum b) := by
  rw [checksumOf_eq, runningSum_eq_indexedSum, reference_checksum_eq]

theorem exec_checksum (b : Bytes) (s : State) : exec (.checksum b) s = finish (.u16 (checksumOf b)) s := rfl

/-- Settles O1: the recursion over the buffer and the pseudocode's loop over indexes accumulate the same sum, and the model
folds and complements it as steps 4 and 5 say. -/
theorem checksumFollowsTheAlgorithm : Obligations.ChecksumFollowsTheAlgorithm := by
  intro b s
  rw [exec_checksum, checksumOf_eq_reference]
  exact finish_next.mpr rfl

end Sys2Proof.Machine
end

section
/-! SUPPORT. The checksum field of a packet (41_codec.md): what sets it, what it does not depend on, and when setting it
changes nothing. -/

namespace Sys2Proof.Machine

theorem exec_encode (p : Packet) (s : State) : exec (.encode p) s = finish (.bytes (pack p)) s := rfl

theorem exec_setChecksum (p : Packet) (s : State) :
    exec (.setChecksum p) s = finish (.packet (withChecksum p)) s := rfl

theorem exec_verifyChecksum (p : Packet) (s : State) :
    exec (.verifyChecksum p) s = finish (.bool (decide (packetChecksum p = p.checksum))) s := rfl

/-- The field is zeroed before the sum and overwritten after it, so the old value has no influence (R103). -/
@[simp] theorem withChecksum_setChecksum (p : Packet) (old : BitVec 16) :
    withChecksum { p with checksum := old } = withChecksum p := rfl

/-- Only the checksum field is set, so nothing changes exactly when it holds its value already (R104). -/
theorem withChecksum_eq_self {p : Packet} : withChecksum p = p ↔ packetChecksum p = p.checksum := by
  constructor
  · intro h
    exact congrArg Packet.checksum h
  · intro h
    rw [withChecksum, h]

/-- `set_checksum` answers a given packet exactly when that is its operand with the checksum set. -/
theorem exec_setChecksum_eq_iff {p q : Packet} {s : State} :
    exec (.setChecksum p) s = .next { s with outcome := some (.ok (.packet q)) } ↔ withChecksum p = q := by
  rw [exec_setChecksum, finish, next_setOutcome_inj, Response.ok.injEq, Result.packet.injEq]

/-- Settles O11: the bytes are those of the packet with the field zeroed, the value is their checksum, and a packet with
another old value has the same result. -/
theorem setChecksumSetsOneField : Obligations.SetChecksumSetsOneField := by
  intro p s
  refine ⟨pack { p with checksum := 0 }, packetChecksum p, exec_encode _ s, pack_length _, exec_checksum _ s,
    exec_setChecksum p s, fun old => ?_⟩
  exact exec_setChecksum_eq_iff.mpr (withChecksum_setChecksum p old)

/-- Settles O12: the answer is the comparison of the recomputed value with the stored one, and the two are equal exactly
when setting the checksum changes nothing. -/
theorem verifyChecksumComparesWithStored : Obligations.VerifyChecksumComparesWithStored := by
  intro p s
  refine ⟨pack { p with checksum := 0 }, packetChecksum p, decide (packetChecksum p = p.checksum), exec_encode _ s,
    exec_checksum _ s, exec_verifyChecksum p s, decide_eq_true_iff, ?_⟩
  rw [decide_eq_true_iff, exec_setChecksum_eq_iff, withChecksum_eq_self]

end Sys2Proof.Machine
end

section
/-! SUPPORT. The predicates (42_predicates.md): each answers a function of one field, and the bits it tests are remainders
of that field's number. -/

namespace Sys2Proof.Machine

/-! ### The answer as a function of one field -/

theorem exec_isHello (p : Packet) (s : State) :
    exec (.isHello p) s = finish (.bool (decide (p.messageCode = MessageCode.hello.value))) s := rfl

theorem exec_hasAck (p : Packet) (s : State) : exec (.hasAck p) s = finish (.bool (ackBit p.instruction1)) s := rfl

theorem exec_hasStore (p : Packet) (s : State) :
    exec (.hasStore p) s = finish (.bool (storeBit p.instruction1)) s := rfl

theorem exec_hasPc (p : Packet) (s : State) :
    exec (.hasPc p) s =
      finish (.bool (decide (p.messageCode = MessageCode.instsReply.value) && p.messageCode.getLsbD 0)) s := rfl

/-! ### The fields as numbers -/

/-- Bit 0 of a field is the parity of its number (00_scope.md R9). -/
theorem getLsbD_zero_eq_decide {w : Nat} (x : BitVec w) : x.getLsbD 0 = decide (x.toNat % 2 = 1) :=
  Nat.testBit_zero x.toNat

theorem ackBit_eq_decide (w : Word) : ackBit w = decide (w.toNat % 2 = 1) := getLsbD_zero_eq_decide w

theorem storeBit_eq_decide (w : Word) : storeBit w = decide (w.toNat / 2 % 2 = 1) :=
  Nat.testBit_eq_decide_div_mod_eq (x := w.toNat) (i := 1)

theorem eq_hello_iff {code : BitVec 6} : code = MessageCode.hello.value ↔ code.toNat = 1 := BitVec.toNat_inj.symm

theorem eq_instsReply_iff {code : BitVec 6} : code = MessageCode.instsReply.value ↔ code.toNat = 9 :=
  BitVec.toNat_inj.symm

/-! ### 42_predicates.md R110 to R114 -/

/-- Settles O14: each predicate's test of its field, a code compared with a named one or a bit, is the arithmetic test of
the field's number; `has_pc` keeps both of its conjuncts. -/
theorem predicatesTestTheirFields : Obligations.PredicatesTestTheirFields := by
  intro p s
  refine ⟨?isHello, ?hasAck, ?hasStore, ?hasPc⟩
  case isHello =>
    simp only [exec_isHello, eq_hello_iff]
    rfl
  case hasAck =>
    rw [exec_hasAck, ackBit_eq_decide]
    rfl
  case hasStore =>
    rw [exec_hasStore, storeBit_eq_decide]
    rfl
  case hasPc =>
    simp only [exec_hasPc, eq_instsReply_iff, getLsbD_zero_eq_decide, Bool.decide_and]
    rfl

/-- Settles O16: the answers of `is_hello` and `has_pc` are functions of the message code and those of `has_ack` and
`has_store` functions of the first instruction word, so packets with an equal field have equal answers in every state. -/
theorem predicatesIgnoreOtherFields : Obligations.PredicatesIgnoreOtherFields := by
  intro p q
  constructor
  · intro hcode
    exact ⟨_, _, fun s => ⟨exec_isHello p s, hcode ▸ exec_isHello q s, exec_hasPc p s, hcode ▸ exec_hasPc q s⟩⟩
  · intro hword
    exact ⟨_, _, fun s => ⟨exec_hasAck p s, hword ▸ exec_hasAck q s, exec_hasStore p s, hword ▸ exec_hasStore q s⟩⟩

end Sys2Proof.Machine
end

section
/-! SUPPORT. What the eight constructors (43_constructors.md) can do, once, and that no constructed packet is returned
unchecksummed (R121). -/

namespace Sys2Proof.Machine

/-! ### The two ends of a constructor -/

theorem exec_makeRegStore (i : BitVec 2) (v0 v1 v2 v3 : Int) (s : State) :
    exec (.makeRegStore i v0 v1 v2 v3) s = execMakeRegStore i v0 v1 v2 v3 s := rfl

/-- `make_reg_store` builds a packet, or one of its values cannot be placed (43_constructors.md R127). -/
theorem exec_makeRegStore_cases (i : BitVec 2) (v0 v1 v2 v3 : Int) (s : State) :
    (∃ w0 w1 w2 w3, exec (.makeRegStore i v0 v1 v2 v3) s =
      finish (.packet (build (regStoreCode i) w0 w1 w2 w3)) s) ∨
    exec (.makeRegStore i v0 v1 v2 v3) s = raise .fieldOverflow s := by
  rw [exec_makeRegStore, execMakeRegStore]
  split
  · exact .inl ⟨_, _, _, _, rfl⟩
  · exact .inr rfl

/-- A constructor answers a packet whose checksum was set last, or fails with FieldOverflow. -/
theorem exec_constructor_cases {i : Instr} (hi : i.isConstructor = true) (s : State) :
    (∃ q : Packet, exec i s = finish (.packet (withChecksum q)) s) ∨ exec i s = raise .fieldOverflow s := by
  cases i with
  | makeHello => exact .inl ⟨_, exec_makeHello s⟩
  | makeHelloReply => exact .inl ⟨_, exec_makeHelloReply s⟩
  | makeRegSend i r0 r1 r2 r3 => exact .inl ⟨_, exec_makeRegSend i r0 r1 r2 r3 s⟩
  | makeRegStore i v0 v1 v2 v3 =>
    obtain ⟨w0, w1, w2, w3, hbuilt⟩ | hfailed := exec_makeRegStore_cases i v0 v1 v2 v3 s
    · exact .inl ⟨_, hbuilt⟩
    · exact .inr hfailed
  | registerPacket q n r0 r1 r2 r3 => exact .inl ⟨_, exec_registerPacket q n r0 r1 r2 r3 s⟩
  | makeInstructionPacket i1 i2 i3 i4 => exact .inl ⟨_, exec_makeInstructionPacket i1 i2 i3 i4 s⟩
  | makePcPacket pc => exact .inl ⟨_, exec_makePcPacket pc s⟩
  | makeAckPacket => exact .inl ⟨_, exec_makeAckPacket s⟩
  | _ => cases hi

/-! ### 43_constructors.md R121 -/

/-- The recomputed value does not depend on the stored one, so it is the one that was just stored (41_codec.md R105). -/
theorem packetChecksum_withChecksum (p : Packet) : packetChecksum (withChecksum p) = (withChecksum p).checksum :=
  withChecksum_eq_self.mp (withChecksum_setChecksum p (packetChecksum p))

/-- A packet whose checksum was set verifies in every state. -/
theorem exec_verifyChecksum_withChecksum (p : Packet) (s : State) :
    exec (.verifyChecksum (withChecksum p)) s = finish (.bool true) s := by
  rw [exec_verifyChecksum, decide_eq_true (packetChecksum_withChecksum p)]

/-- Settles O19: a constructor that does not fail sets the checksum last, and a packet whose checksum was set verifies. -/
theorem constructorResultsAreChecksummed : Obligations.ConstructorResultsAreChecksummed := by
  intro i s hi
  obtain ⟨q, hq⟩ | hfailed := exec_constructor_cases hi s
  · exact .inl ⟨withChecksum q, hq, exec_verifyChecksum_withChecksum q⟩
  · exact .inr ⟨.fieldOverflow, hfailed⟩

end Sys2Proof.Machine
end

section
/-! SUPPORT. The outcome of each operation of the memory family (44_memory_ops.md R140 to R144): a read by its range check,
a store by its three checks in order and the cells it then leaves. -/

namespace Sys2Proof.Machine

/-! ### 44_memory_ops.md R140, R141 and R144 -/

theorem readResponse_of_inRange {size : Nat} {addr n : Int} (r : Result) (h : 0 ≤ addr ∧ addr + n ≤ (size : Int)) :
    readResponse size addr n r = .ok r := if_pos h

theorem readResponse_of_not_inRange {size : Nat} {addr n : Int} (r : Result)
    (h : ¬(0 ≤ addr ∧ addr + n ≤ (size : Int))) : readResponse size addr n r = .error .addressOutOfRange := if_neg h

/-- Settles O26: the condition is the range check of one byte. -/
theorem getByteOutcome : Obligations.GetByteOutcome := by
  intro addr s
  rw [exec_getByte]
  split
  · next hrange => exact next_setOutcome_inj.mpr (readResponse_of_inRange _ (by omega))
  · next hrange => exact next_setOutcome_inj.mpr (readResponse_of_not_inRange _ (by omega))

/-- Settles O27: the condition is the range check of four bytes, and the word found is the big-endian number of its
cells. -/
theorem getWordOutcome : Obligations.GetWordOutcome := by
  intro addr s
  rw [exec_getWord]
  split
  · next hrange =>
    exact ⟨s.bytes.readWord addr.toNat, next_setOutcome_inj.mpr (readResponse_of_inRange _ (by omega)), be32_toNat ..⟩
  · next hrange => exact next_setOutcome_inj.mpr (readResponse_of_not_inRange _ (by omega))

theorem exec_closeSetup (s : State) : exec .closeSetup s = finish .unit (s.setSetup false) := rfl

/-- Settles O30: the meaning is one update of the lifecycle bit. -/
theorem closeSetupClearsSetup : Obligations.CloseSetupClearsSetup := exec_closeSetup

/-! ### 44_memory_ops.md R142 and R143 -/

/-- A store by its checks in order, `range` being the range check as its rule writes it, with what is known of the new
buffer once all have passed. -/
theorem checkedStore_outcome {s : State} {addr n : Int} {range fits : Prop} [Decidable range] [Decidable fits]
    {m : Memory} {P : Memory → Prop} (hrange : range ↔ s.InRange addr n) (hm : 0 ≤ addr → fits → P m) :
    if ¬range then checkedStore s addr n fits m = .next { s with outcome := some (.error .addressOutOfRange) }
    else if ¬(s.setup = true ∨ (s.readBound : Int) ≤ addr) then
      checkedStore s addr n fits m = .next { s with outcome := some (.error .addressOutOfRange) }
    else if ¬fits then checkedStore s addr n fits m = .next { s with outcome := some (.error .valueOutOfRange) }
    else ∃ m', checkedStore s addr n fits m = .next { s with bytes := m', outcome := some (.ok .unit) } ∧ P m' := by
  obtain ⟨hrefused, h⟩ | ⟨⟨hin, hstart⟩, hvalue, h⟩ | ⟨⟨hin, hstart⟩, hvalue, h⟩ := checkedStore_cases s addr n fits m
  · by_cases hin : range
    · have hstart : ¬(s.setup = true ∨ (s.readBound : Int) ≤ addr) := fun hs => hrefused ⟨hrange.mp hin, hs⟩
      rw [if_neg (not_not_intro hin), if_pos hstart]
      exact h
    · rw [if_pos hin]
      exact h
  · rw [if_neg (not_not_intro (hrange.mpr hin)), if_neg (not_not_intro hstart), if_pos hvalue]
    exact h
  · rw [if_neg (not_not_intro (hrange.mpr hin)), if_neg (not_not_intro hstart), if_neg (not_not_intro hvalue)]
    exact ⟨m, h, hm hin.1 hvalue⟩

/-- What a write of a word leaves in its four cells (20_memory.md R43). -/
theorem Memory.read_writeWord (m : Memory) (a : Nat) (v : Word) {j : Nat} (hj : j < 4) :
    (m.writeWord a v).read (a + j) = Reference.byteOfWord v.toNat j :=
  (Memory.read_writeBytes (bytes32 v) m a j hj).trans (byteAt_bytes32 v hj)

/-- A value that `store_byte` accepts is the number of the byte it stores. -/
theorem toNat_ofNat_of_byteValue {v : Int} (h : ByteValue v) : ((BitVec.ofNat 8 v.toNat).toNat : Int) = v := by
  rw [BitVec.toNat_ofNat]
  omega

/-- A value that `store_word` accepts is the number of the word it stores. -/
theorem toNat_ofNat_of_wordValue {v : Int} (h : WordValue v) : (BitVec.ofNat 32 v.toNat).toNat = v.toNat := by
  rw [BitVec.toNat_ofNat]
  omega

/-- Settles O28: the checks are those of `checkedStore`, and the buffer is read after the write of one byte. -/
theorem storeByteOutcome : Obligations.StoreByteOutcome := by
  intro addr value s
  rw [exec_storeByte]
  refine checkedStore_outcome (by omega) fun haddr hvalue => ⟨?stored, fun a ha => ?kept⟩
  case stored => rw [Memory.read_write_same, toNat_ofNat_of_byteValue hvalue]
  case kept => exact Memory.read_write_other _ _ (by omega)

/-- Settles O29: the checks are those of `checkedStore`, and the buffer is read after the write of one word. -/
theorem storeWordOutcome : Obligations.StoreWordOutcome := by
  intro addr value s
  rw [exec_storeWord]
  refine checkedStore_outcome (by omega) fun haddr hvalue => ⟨fun j hj => ?stored, fun a ha => ?kept⟩
  case stored => rw [Memory.read_writeWord _ _ _ hj, toNat_ofNat_of_wordValue hvalue]
  case kept => exact Memory.read_writeWord_other _ _ (by omega)

end Sys2Proof.Machine
end

section
/-! SUPPORT. The exact conditions of three error kinds of 60_exceptions.md: AddressOutOfRange and ValueOutOfRange of an
access, and MalformedPacket of `decode`. -/

namespace Sys2Proof.Machine

/-! ### 60_exceptions.md R181 and R182 -/

/-- The address condition of R181: a store is not allowed where its cells leave the Memory or, in OPERATIONAL mode, its
start lies below the bound. -/
theorem not_storeAllowed_iff {s : State} {addr n : Int} :
    ¬s.StoreAllowed addr n ↔ addr < 0 ∨ addr + n > s.size ∨ (s.setup = false ∧ addr < s.readBound) := by
  cases hsetup : s.setup with
  | true =>
    rw [State.storeAllowed_setup hsetup]
    simp only [reduceCtorEq, false_and, or_false]
    omega
  | false =>
    rw [State.storeAllowed_operational hsetup]
    simp only [true_and]
    omega

/-- The two errors of a store: the address's when the store is not allowed, the value's only when it is. -/
theorem checkedStore_eq_error {s : State} {addr n : Int} {fits : Prop} [Decidable fits] {m : Memory} {k : ErrorKind} :
    checkedStore s addr n fits m = .next { s with outcome := some (.error k) } ↔
      (¬s.StoreAllowed addr n ∧ k = .addressOutOfRange) ∨
        (s.StoreAllowed addr n ∧ ¬fits ∧ k = .valueOutOfRange) := by
  obtain ⟨hrefused, h⟩ | ⟨hallowed, hfits, h⟩ | ⟨hallowed, hfits, h⟩ := checkedStore_cases s addr n fits m
  · rw [h, next_setOutcome_inj, Response.error.injEq, eq_comm (b := k)]
    simp [eq_false hrefused]
  · rw [h, next_setOutcome_inj, Response.error.injEq, eq_comm (b := k)]
    simp [eq_true hallowed, hfits]
  · rw [h]
    simp [State.setOutcome, hallowed, hfits]

theorem checkedStore_eq_addressOutOfRange {s : State} {addr n : Int} {fits : Prop} [Decidable fits] {m : Memory} :
    checkedStore s addr n fits m = .next { s with outcome := some (.error .addressOutOfRange) } ↔
      addr < 0 ∨ addr + n > s.size ∨ (s.setup = false ∧ addr < s.readBound) := by
  simp only [checkedStore_eq_error, not_storeAllowed_iff, reduceCtorEq, and_true, and_false, or_false]

theorem checkedStore_eq_valueOutOfRange {s : State} {addr n : Int} {fits : Prop} [Decidable fits] {m : Memory} :
    checkedStore s addr n fits m = .next { s with outcome := some (.error .valueOutOfRange) } ↔
      ¬(addr < 0 ∨ addr + n > s.size ∨ (s.setup = false ∧ addr < s.readBound)) ∧ ¬fits := by
  simp only [checkedStore_eq_error, ← not_storeAllowed_iff, not_not, reduceCtorEq, and_true, and_false, false_or]

/-- Settles O36: the one error of a read is its failed range check, and the two errors of a store are told apart by its
address condition. That of a byte is written `addr ≥ M.size`, for `addr + 1 > M.size`. -/
theorem memoryErrorConditions : Obligations.MemoryErrorConditions := by
  intro addr value s
  have hpast : addr + 1 > s.size ↔ addr ≥ s.size := Int.lt_add_one_iff
  refine ⟨?getByte, ?getWord, ?storeByte, ?storeWord, ?byteValue, ?wordValue, ?getByteNever, ?getWordNever⟩
  case getByte =>
    rw [exec_getByte, next_setOutcome_inj, readResponse_eq_error, and_iff_left rfl]
    omega
  case getWord =>
    rw [exec_getWord, next_setOutcome_inj, readResponse_eq_error, and_iff_left rfl]
    omega
  case storeByte => rw [exec_storeByte, checkedStore_eq_addressOutOfRange, hpast]
  case storeWord => rw [exec_storeWord, checkedStore_eq_addressOutOfRange]
  case byteValue =>
    rw [exec_storeByte, checkedStore_eq_valueOutOfRange, hpast]
    exact and_congr_right fun _ => by omega
  case wordValue =>
    rw [exec_storeWord, checkedStore_eq_valueOutOfRange]
    exact and_congr_right fun _ => by omega
  case getByteNever =>
    rw [exec_getByte, ne_eq, next_setOutcome_inj, readResponse_eq_error]
    rintro ⟨-, ⟨⟩⟩
  case getWordNever =>
    rw [exec_getWord, ne_eq, next_setOutcome_inj, readResponse_eq_error]
    rintro ⟨-, ⟨⟩⟩

/-! ### 60_exceptions.md R183 -/

theorem exec_decode (b : Bytes) (s : State) :
    exec (.decode b) s =
      if b.length = 20 then finish (.packet (unpack b)) s else raise .malformedPacket s := rfl

/-- Settles O9: `decode` raises where its length check fails and ends with a result elsewhere, as `encode` always does. -/
theorem malformedPacketExactlyOnLength : Obligations.MalformedPacketExactlyOnLength := by
  refine ⟨fun b s => ?decode, fun p s t h => ?encode⟩
  case decode =>
    rw [exec_decode]
    split
    · next hlen =>
      rw [finish, next_setOutcome_inj]
      simp [hlen]
    · next hlen => exact iff_of_true rfl hlen
  case encode =>
    obtain rfl := finish_next.mp h
    simp

end Sys2Proof.Machine
end

section
/-! SUPPORT. Everything an instruction can do to the state, once (00_scope.md R5, R16; 20_memory.md R48), and the
invariants of 10_state.md that follow: for one operation, for a step, and for any number of steps. -/

namespace Sys2Proof.Machine

/-! ### The ends of an operation -/

/-- The errors that 60_exceptions.md R180 lists for an operation. -/
def errorKinds : Instr → List ErrorKind
  | .getByte _ | .getWord _ => [.addressOutOfRange]
  | .storeByte .. | .storeWord .. => [.addressOutOfRange, .valueOutOfRange]
  | .decode _ => [.malformedPacket]
  | .makeRegStore .. => [.fieldOverflow]
  | _ => []

/-- The states in which an instruction can leave the block: a result or a listed error that changes nothing else,
`close_setup`'s cleared lifecycle bit, or the bytes of an allowed store. -/
inductive Ends (i : Instr) (s : State) : State → Prop
  | result (hi : i ≠ .closeSetup) (r : Result) : Ends i s (s.setOutcome (.ok r))
  | error (hi : i ≠ .closeSetup) {k : ErrorKind} (hk : k ∈ errorKinds i) : Ends i s (s.setOutcome (.error k))
  | closed (hi : i = .closeSetup) : Ends i s ((s.setSetup false).setOutcome (.ok .unit))
  | stored (hi : i ≠ .closeSetup) {addr : Int} {bs : Bytes} (h : s.StoreAllowed addr bs.length) :
      Ends i s ((s.setBytes (s.bytes.writeBytes addr.toNat bs)).setOutcome (.ok .unit))

/-- A read ends with its value, or with the range check's error. -/
theorem readResponse_ends {i : Instr} {s : State} (hi : i ≠ .closeSetup) (hk : .addressOutOfRange ∈ errorKinds i)
    (addr n : Int) (r : Result) : Ends i s (s.setOutcome (readResponse s.size addr n r)) := by
  unfold readResponse
  split
  · exact .result hi r
  · exact .error hi hk

/-- A store ends with one of its two errors, or with its bytes written. -/
theorem checkedStore_ends {i : Instr} {s : State} (hi : i ≠ .closeSetup)
    (hk : errorKinds i = [.addressOutOfRange, .valueOutOfRange]) (addr : Int) (bs : Bytes) (fits : Prop)
    [Decidable fits] :
    ∃ t, checkedStore s addr bs.length fits (s.bytes.writeBytes addr.toNat bs) = .next t ∧ Ends i s t := by
  obtain ⟨-, h⟩ | ⟨-, -, h⟩ | ⟨hallowed, -, h⟩ :=
    checkedStore_cases s addr bs.length fits (s.bytes.writeBytes addr.toNat bs)
  · exact ⟨_, h, .error hi (by simp [hk])⟩
  · exact ⟨_, h, .error hi (by simp [hk])⟩
  · exact ⟨_, h, .stored hi hallowed⟩

/-- Every instruction completes, in one of its ends. -/
theorem exec_ends (i : Instr) (s : State) : ∃ t, exec i s = .next t ∧ Ends i s t := by
  cases i with
  | decode b =>
    rw [exec_decode]
    split
    · exact ⟨_, rfl, .result (by nofun) _⟩
    · exact ⟨_, rfl, .error (by nofun) (List.mem_singleton_self _)⟩
  | makeRegStore i v0 v1 v2 v3 =>
    obtain ⟨w0, w1, w2, w3, hbuilt⟩ | hfailed := exec_makeRegStore_cases i v0 v1 v2 v3 s
    · exact ⟨_, hbuilt, .result (by nofun) _⟩
    · exact ⟨_, hfailed, .error (by nofun) (List.mem_singleton_self _)⟩
  | getByte addr => exact ⟨_, exec_getByte addr s, readResponse_ends (by nofun) (List.mem_singleton_self _) ..⟩
  | getWord addr => exact ⟨_, exec_getWord addr s, readResponse_ends (by nofun) (List.mem_singleton_self _) ..⟩
  | storeByte addr value =>
    exact checkedStore_ends (by nofun) rfl addr [BitVec.ofNat 8 value.toNat] (ByteValue value)
  | storeWord addr value =>
    exact checkedStore_ends (by nofun) rfl addr (bytes32 (BitVec.ofNat 32 value.toNat)) (WordValue value)
  | closeSetup => exact ⟨_, exec_closeSetup s, .closed rfl⟩
  | _ => exact ⟨_, rfl, .result (by nofun) _⟩

theorem ends_of_exec {i : Instr} {s t : State} (h : exec i s = .next t) : Ends i s t := by
  obtain ⟨u, hu, hends⟩ := exec_ends i s
  obtain rfl : u = t := Host.Outcome.next.inj (hu.symm.trans h)
  exact hends

/-! ### The write-permission invariant (10_state.md R30) -/

theorem guarded_refl {s : State} (hsetup : s.setup = false) : s.Guarded s :=
  ⟨hsetup, rfl, rfl, fun _ _ => rfl⟩

theorem guarded_trans {s t u : State} (hst : s.Guarded t) (htu : t.Guarded u) : s.Guarded u := by
  obtain ⟨-, hsize, hbound, hread⟩ := hst
  obtain ⟨hsetup', hsize', hbound', hread'⟩ := htu
  exact ⟨hsetup', hsize'.trans hsize, hbound'.trans hbound,
    fun a ha => (hread' a (hbound ▸ ha)).trans (hread a ha)⟩

/-- An allowed store in OPERATIONAL mode starts at or above the bound, so none of its cells is protected. -/
theorem Ends.guarded {i : Instr} {s t : State} (h : Ends i s t) (hsetup : s.setup = false) : s.Guarded t := by
  cases h with
  | result | error => exact ⟨hsetup, rfl, rfl, fun _ _ => rfl⟩
  | closed => exact ⟨rfl, rfl, rfl, fun _ _ => rfl⟩
  | stored _ hallowed =>
    obtain ⟨-, hstart⟩ := (State.storeAllowed_operational hsetup ..).mp hallowed
    exact ⟨hsetup, rfl, rfl, fun a ha => Memory.read_writeBytes_other _ _ (by omega)⟩

theorem step_guarded {s t : State} (hsetup : s.setup = false) (h : step s = .next t) : s.Guarded t := by
  obtain ⟨-, rfl⟩ | ⟨r, rest, i, -, -, hexec⟩ := step_next h
  · exact guarded_refl hsetup
  · exact (ends_of_exec hexec).guarded hsetup

/-- A run of one step more that does not stop is a step and the run after it. -/
theorem run_succ_next {M : Host.Core} {k : Nat} {s t : M.State} (h : M.run (k + 1) s = .next t) :
    ∃ u, M.step s = .next u ∧ M.run k u = .next t := by
  unfold Host.Core.run at h
  split at h
  · next u hu => exact ⟨u, hu, h⟩
  · cases h
  · cases h

/-- Settles O44, by induction on the number of steps: each step guards the protected bytes, and guarding is
transitive. -/
theorem writePermissionInvariant : Obligations.WritePermissionInvariant := by
  intro k
  induction k with
  | zero =>
    intro s t hsetup h
    obtain rfl : s = t := Host.Outcome.next.inj h
    exact guarded_refl hsetup
  | succ k ih =>
    intro s t hsetup h
    obtain ⟨u, hstep, hrun⟩ := run_succ_next h
    have hguarded := step_guarded hsetup hstep
    exact guarded_trans hguarded (ih u t hguarded.1 hrun)

/-! ### The state invariants (10_state.md R31) -/

theorem Ends.size {i : Instr} {s t : State} (h : Ends i s t) : t.size = s.size := by cases h <;> rfl

theorem Ends.readBound {i : Instr} {s t : State} (h : Ends i s t) : t.readBound = s.readBound := by cases h <;> rfl

theorem Ends.requests {i : Instr} {s t : State} (h : Ends i s t) : t.requests = s.requests := by cases h <;> rfl

/-- An allowed store lists only cells in range, and writing bytes keeps the canonical form. -/
theorem Ends.inv {i : Instr} {s t : State} (h : Ends i s t) (hs : s.Inv) : t.Inv := by
  cases h with
  | result | error | closed => exact hs
  | stored _ hallowed =>
    obtain ⟨hbound, hwf, hcells⟩ := hs
    obtain ⟨⟨haddr, hend⟩, -⟩ := hallowed
    refine ⟨hbound, Memory.wf_writeBytes _ _ hwf, fun c hc => ?_⟩
    obtain ⟨-, hc⟩ | hc := Memory.mem_writeBytes _ hc
    · simp only [State.setOutcome_size, State.setBytes_size]
      omega
    · exact hcells c hc

/-- Settles O45: a step waits or performs one operation, and every end of an operation keeps the invariants. -/
theorem stepKeepsTheInvariant : Obligations.StepKeepsTheInvariant := by
  intro s t hs h
  obtain ⟨-, rfl⟩ | ⟨r, rest, i, -, -, hexec⟩ := step_next h
  · exact ⟨hs, rfl, rfl⟩
  · have hends := ends_of_exec hexec
    exact ⟨hends.inv hs, hends.size, hends.readBound⟩

/-! ### What every operation keeps -/

/-- Settles O37: the ends with an error change nothing else. -/
theorem failedOperationChangesNothing : Obligations.FailedOperationChangesNothing := by
  intro i s t k hexec hk
  cases ends_of_exec hexec with
  | error =>
    cases hk
    rfl
  | result | closed | stored => cases hk

/-- An error outcome is one of those listed for the operation. -/
theorem mem_errorKinds_of_exec {i : Instr} {s t : State} {k : ErrorKind} (hexec : exec i s = .next t)
    (hk : t.outcome = some (.error k)) : k ∈ errorKinds i := by
  cases ends_of_exec hexec with
  | error _ hmem =>
    cases hk
    exact hmem
  | result | closed | stored => cases hk

/-- Settles O38: the error is listed for the operation, and the list of each operation is that of the table. -/
theorem errorKindsByOperation : Obligations.ErrorKindsByOperation := by
  intro i s t k hexec hk
  have hmem := mem_errorKinds_of_exec hexec hk
  cases i with
  | getByte a =>
    obtain rfl := List.mem_singleton.mp hmem
    exact .inl ⟨a, rfl⟩
  | getWord a =>
    obtain rfl := List.mem_singleton.mp hmem
    exact .inr (.inl ⟨a, rfl⟩)
  | storeByte a v =>
    obtain rfl | rfl := List.mem_pair.mp hmem
    · exact .inr (.inr (.inl ⟨a, v, rfl⟩))
    · exact .inl ⟨a, v, rfl⟩
  | storeWord a v =>
    obtain rfl | rfl := List.mem_pair.mp hmem
    · exact .inr (.inr (.inr ⟨a, v, rfl⟩))
    · exact .inr ⟨a, v, rfl⟩
  | decode b =>
    obtain rfl := List.mem_singleton.mp hmem
    exact ⟨b, rfl⟩
  | makeRegStore n v0 v1 v2 v3 =>
    obtain rfl := List.mem_singleton.mp hmem
    exact ⟨n, v0, v1, v2, v3, rfl⟩
  | _ => cases hmem

/-- A creation answers its state for legal parameters only. -/
theorem create_next {memSize readBound : Int} {t : State} (h : State.create memSize readBound = .next t) :
    0 ≤ readBound ∧ readBound < memSize ∧ t = ⟨memSize.toNat, readBound.toNat, true, [], [], none⟩ := by
  unfold State.create at h
  split at h
  · next hlegal => exact ⟨hlegal.1, hlegal.2, (Host.Outcome.next.inj h).symm⟩
  · cases h

/-- Settles O41: the ends other than `close_setup`'s leave the lifecycle bit, and none touches the constants. -/
theorem lifecycleChangesOnlyByCloseSetup : Obligations.LifecycleChangesOnlyByCloseSetup := by
  refine ⟨fun memSize readBound t h => ?creation, fun i s t hexec => ?operation⟩
  case creation =>
    obtain ⟨-, -, rfl⟩ := create_next h
    rfl
  case operation =>
    have hends := ends_of_exec hexec
    refine ⟨?_, hends.size, hends.readBound⟩
    cases hends with
    | closed hi => rw [if_pos hi]; rfl
    | result hi | error hi | stored hi => rw [if_neg hi]; rfl

/-- Settles O43: every end of an operation records an outcome. -/
theorem everyOperationCompletes : Obligations.EveryOperationCompletes := by
  intro i s
  obtain ⟨t, hexec, hends⟩ := exec_ends i s
  have hrequests := hends.requests
  cases hends <;> exact ⟨_, _, hexec, rfl, hrequests⟩

/-- Outside the memory family the outcome is a function of the operands. -/
theorem exec_of_not_memoryOp {i : Instr} (hi : i.isMemoryOp = false) :
    ∃ o : Response, ∀ s, exec i s = .next (s.setOutcome o) := by
  cases i with
  | decode b =>
    by_cases hlen : b.length = 20
    · exact ⟨_, fun s => (exec_decode b s).trans (if_pos hlen)⟩
    · exact ⟨_, fun s => (exec_decode b s).trans (if_neg hlen)⟩
  | makeRegStore i v0 v1 v2 v3 =>
    simp only [exec_makeRegStore, execMakeRegStore]
    split
    · exact ⟨_, fun _ => rfl⟩
    · exact ⟨_, fun _ => rfl⟩
  | getByte | getWord | storeByte | storeWord | closeSetup | dump => cases hi
  | _ => exact ⟨_, fun _ => rfl⟩

/-- Settles O39: `exec_of_not_memoryOp` read as the statement writes the next state. -/
theorem pureOperationsNeitherReadNorWriteState : Obligations.PureOperationsNeitherReadNorWriteState :=
  fun _ => exec_of_not_memoryOp

/-- Settles O42: every arm of `exec` ends in the outcome it records, over whatever was recorded before. -/
theorem outcomesAreNotLatched : Obligations.OutcomesAreNotLatched := by
  intro i s o
  cases i <;> rfl

end Sys2Proof.Machine
end

section
/-! SUPPORT. `pack` and `unpack` (41_codec.md R100): each field as a number, and each function undoing the other. -/

namespace Sys2Proof

/-! ### The header word (30_encoding.md R66, decision D3) -/

theorem headerWord_toNat (p : Packet) :
    (headerWord p).toNat =
      16384 * p.version.toNat + 256 * p.messageCode.toNat + 16 * p.flags.toNat + p.aSeqNum.toNat := by
  simp only [headerWord, toNat_append_eq]
  omega

/-- The bytes of a 16-bit number, as numbers. -/
theorem bytes16_eq (v : BitVec 16) : bytes16 v = [BitVec.ofNat 8 (v.toNat / 256), BitVec.ofNat 8 v.toNat] := by
  simp only [bytes16, List.cons.injEq, and_true, ← BitVec.toNat_inj, BitVec.extractLsb'_toNat, BitVec.toNat_ofNat,
    Nat.shiftRight_eq_div_pow]
  simp

/-- The header's bytes hold two fields each: version and message code, then flags and sequence number. -/
theorem bytes16_headerWord (p : Packet) :
    bytes16 (headerWord p) =
      [BitVec.ofNat 8 (64 * p.version.toNat + p.messageCode.toNat),
        BitVec.ofNat 8 (16 * p.flags.toNat + p.aSeqNum.toNat)] := by
  have hcode := p.messageCode.isLt
  have hflags := p.flags.isLt
  have hseq := p.aSeqNum.isLt
  simp only [bytes16_eq, headerWord_toNat, List.cons.injEq, and_true, ← BitVec.toNat_inj, BitVec.toNat_ofNat]
  omega

theorem unpack_version (b : Bytes) : (unpack b).version.toNat = (byteAt b 0).toNat / 64 := by
  have h0 := (byteAt b 0).isLt
  have h1 := (byteAt b 1).isLt
  simp only [unpack, be16At, BitVec.extractLsb'_toNat, be16_toNat, Nat.shiftRight_eq_div_pow, Nat.zero_add]
  omega

theorem unpack_flags (b : Bytes) : (unpack b).flags.toNat = (byteAt b 1).toNat / 16 := by
  have h1 := (byteAt b 1).isLt
  simp only [unpack, be16At, BitVec.extractLsb'_toNat, be16_toNat, Nat.shiftRight_eq_div_pow, Nat.zero_add]
  omega

theorem unpack_aSeqNum (b : Bytes) : (unpack b).aSeqNum.toNat = (byteAt b 1).toNat % 16 := by
  simp only [unpack, be16At, BitVec.extractLsb'_toNat, be16_toNat, Nat.shiftRight_eq_div_pow, Nat.zero_add]
  omega

/-- The header fields cut the first two bytes without a gap, so they make up the same header word. -/
theorem headerWord_unpack (b : Bytes) : headerWord (unpack b) = be16At b 0 := by
  rw [← BitVec.toNat_inj, headerWord_toNat, unpack_version, unpack_messageCode, unpack_flags, unpack_aSeqNum,
    be16At, be16_toNat, Nat.zero_add]
  omega

/-! ### The two are inverse (41_codec.md, the derived bijection) -/

theorem unpack_pack (p : Packet) : unpack (pack p) = p := by
  have hheader : be16At (pack p) 0 = headerWord p := Laws.Selector.header_pack p
  have hversion := p.version.isLt
  have hcode := p.messageCode.isLt
  have hflags := p.flags.isLt
  have hseq := p.aSeqNum.isLt
  have hchecksum : be16At (pack p) 2 = p.checksum := Laws.Selector.be16_bytes16 _
  have h1 : be32At (pack p) 4 = p.instruction1 := be32_bytes32 _
  have h2 : be32At (pack p) 8 = p.instruction2 := be32_bytes32 _
  have h3 : be32At (pack p) 12 = p.instruction3 := be32_bytes32 _
  have h4 : be32At (pack p) 16 = p.instruction4 := be32_bytes32 _
  simp only [unpack, hheader, hchecksum, h1, h2, h3, h4]
  obtain ⟨version, code, flags, seq, checksum, w1, w2, w3, w4⟩ := p
  simp only [Packet.mk.injEq, and_true, ← BitVec.toNat_inj, BitVec.extractLsb'_toNat, headerWord_toNat,
    Nat.shiftRight_eq_div_pow] at *
  omega

theorem pack_unpack {b : Bytes} (h : b.length = 20) : pack (unpack b) = b := by
  rw [pack, headerWord_unpack]
  match b, h with
  | [b0, b1, b2, b3, b4, b5, b6, b7, b8, b9, b10, b11, b12, b13, b14, b15, b16, b17, b18, b19], _ =>
    simp [unpack, be16At, be32At, byteAt, bytes16_be16, bytes32_be32]

namespace Machine

theorem exec_decode_of_length {b : Bytes} (h : b.length = 20) (s : State) :
    exec (.decode b) s = finish (.packet (unpack b)) s :=
  (exec_decode b s).trans (if_pos h)

theorem exec_decode_pack (p : Packet) (s : State) : exec (.decode (pack p)) s = finish (.packet p) s := by
  rw [exec_decode_of_length (pack_length p), unpack_pack]

/-- Settles O7: the bytes of each field, as numbers. -/
theorem encodePlacesEveryField : Obligations.EncodePlacesEveryField := by
  intro p s
  rw [exec_encode, pack, bytes16_headerWord, bytes16_eq, bytes32_eq, bytes32_eq, bytes32_eq, bytes32_eq]
  rfl

/-- Settles O8: `unpack` field by field. -/
theorem decodeReadsEveryField : Obligations.DecodeReadsEveryField := by
  intro b s h
  exact ⟨unpack b, exec_decode_of_length h s, unpack_version b, unpack_messageCode b, unpack_flags b, unpack_aSeqNum b,
    be16_toNat .., be32_toNat .., be32_toNat .., be32_toNat .., be32_toNat ..⟩

/-- Settles O10: `unpack` undoes `pack`, and `pack` undoes `unpack` on 20 bytes. -/
theorem packetAndBytesRoundTrip : Obligations.PacketAndBytesRoundTrip := by
  refine ⟨fun p s => ⟨pack p, exec_encode p s, exec_decode_pack p s⟩, fun b s h => ?_⟩
  refine ⟨unpack b, exec_decode_of_length h s, ?_⟩
  rw [exec_encode, pack_unpack h]
  rfl

end Machine

end Sys2Proof
end

section
/-! SUPPORT. Requests and instructions (30_encoding.md): a wire buffer and the packet kind its code selects, a selector
and its one spelling, and the decoder undoing the encoder. -/

namespace Sys2Proof

/-! ### Wire buffers (30_encoding.md R75, R160) -/

theorem Reference.codeNumber_eq (k : MessageCode) : Reference.codeNumber k = k.value.toNat := by
  cases k <;> rfl

/-- The message code of a buffer is a kind's exactly when its first byte says so. -/
theorem unpack_messageCode_eq_iff {b : Bytes} {k : MessageCode} :
    (unpack b).messageCode = k.value ↔ (byteAt b 0).toNat % 64 = Reference.codeNumber k := by
  rw [← BitVec.toNat_inj, unpack_messageCode, Reference.codeNumber_eq]

/-- What a wire buffer asks for is its packet, where its length and its code allow one, and else the operand of
`decode` (log 3). -/
theorem decodeWire_cases (b : Bytes) :
    (∃ k : MessageCode, b.length = 20 ∧ (unpack b).messageCode = k.value ∧ decodeWire b = k.toInstr (unpack b).body) ∨
      ((b.length ≠ 20 ∨ ∀ k : MessageCode, (unpack b).messageCode ≠ k.value) ∧ decodeWire b = .decode b) := by
  unfold decodeWire
  split
  · next hlen =>
    split
    · next k hk => exact .inl ⟨k, hlen, MessageCode.ofValue?_eq_some.mp hk, rfl⟩
    · next hnone =>
      refine .inr ⟨.inr fun k hk => ?_, rfl⟩
      rw [MessageCode.ofValue?_eq_some.mpr hk] at hnone
      cases hnone
  · next hlen => exact .inr ⟨.inl hlen, rfl⟩

theorem MessageCode.value_inj {k k' : MessageCode} (h : k.value = k'.value) : k = k' :=
  Option.some.inj ((ofValue?_eq_some.mpr rfl).symm.trans (ofValue?_eq_some.mpr h))

/-- The encoding tells the packet kinds apart. -/
theorem toInstr_inj {k k' : MessageCode} {f f' : PacketBody} (h : k.toInstr f = k'.toInstr f') : k = k' := by
  have hwire := congrArg encode h
  rw [encode_toInstr, encode_toInstr, Request.wire.injEq] at hwire
  have hpacket := congrArg unpack hwire
  rw [unpack_pack, unpack_pack] at hpacket
  exact MessageCode.value_inj (congrArg Packet.messageCode hpacket)

theorem toInstr_ne_decode (k : MessageCode) (f : PacketBody) (b : Bytes) : k.toInstr f ≠ .decode b := by
  intro h
  have henc := congrArg encode h
  rw [encode_toInstr] at henc
  cases henc

theorem decodeWire_of_code {b : Bytes} {k : MessageCode} (hlen : b.length = 20)
    (hcode : (unpack b).messageCode = k.value) : decodeWire b = k.toInstr (unpack b).body := by
  obtain ⟨k', -, hcode', h⟩ | ⟨hlen' | hcode', -⟩ := decodeWire_cases b
  · rwa [MessageCode.value_inj (hcode'.symm.trans hcode)] at h
  · exact absurd hlen hlen'
  · exact absurd hcode (hcode' k)

/-- Settles O56: a buffer of a kind has the kind's code, since kinds are told apart, and the code selects the kind. -/
theorem messageCodeSelectsTheKind : Obligations.MessageCodeSelectsTheKind := by
  intro b k hlen
  rw [← unpack_messageCode_eq_iff]
  constructor
  · rintro ⟨f, hf⟩
    rw [decode_wire, Except.ok.injEq] at hf
    obtain ⟨k', -, hcode, h⟩ | ⟨-, h⟩ := decodeWire_cases b
    · rwa [← toInstr_inj (h.symm.trans hf)]
    · exact absurd (hf.symm.trans h) (toInstr_ne_decode k f b)
  · intro hcode
    exact ⟨(unpack b).body, congrArg Except.ok (decodeWire_of_code hlen hcode)⟩

/-- Settles O57: a packet kind answers the packet that `decode` reads from the buffer. -/
theorem wireBufferMeansDecode : Obligations.WireBufferMeansDecode := by
  intro b s
  refine ⟨decodeWire b, decode_wire b, ?_⟩
  obtain ⟨k, hlen, hcode, h⟩ | ⟨-, h⟩ := decodeWire_cases b
  · rw [h, Machine.exec_toInstr, Packet.body_toPacket hcode, Machine.exec_decode_of_length hlen]
  · rw [h]

/-! ### Decoding an encoded instruction -/

theorem decode_encodeKind (k : MessageCode) (f : PacketBody) : decode (encodeKind k f) = .ok (k.toInstr f) := by
  have hunpack : unpack (pack (f.toPacket k)) = f.toPacket k := unpack_pack _
  have hcode : (unpack (pack (f.toPacket k))).messageCode = k.value := congrArg Packet.messageCode hunpack
  rw [encodeKind, decode_wire, decodeWire_of_code (pack_length _) hcode, hunpack]
  rfl

theorem fourWords_toNat (f : Word → Word → Word → Word → Instr) (a b c d : Word) :
    fourWords f a.toNat b.toNat c.toNat d.toNat = .ok (f a b c d) :=
  fourWords_eq_ok.mpr ⟨a, b, c, d, rfl, rfl, rfl, rfl, rfl⟩

theorem portU2_toNat (i : BitVec 2) : portU2 i.toNat = .ok i := portU2_eq_ok.mpr rfl

theorem portU32_toNat (w : Word) : portU32 w.toNat = .ok w := portU32_eq_ok.mpr rfl

/-- Settles O52: a packet kind by its 20 bytes, a word or group operand through its port, and every other operation by
evaluating the decoder on its selector. -/
theorem decodeOfEncode : Obligations.DecodeOfEncode := by
  intro i
  cases i with
  | makeRegSend i a b c d =>
    exact (decode_makeRegSend _).trans (by simp only [regSendArgs, portU2_toNat, fourWords_toNat])
  | makeRegStore i a b c d =>
    exact (decode_makeRegStore _).trans (by simp only [regStoreArgs, portU2_toNat, Except.map])
  | registerPacket p n a b c d =>
    exact (decode_registerPacket _).trans
      (by simp only [Operand.word, registerPacketArgs, portU2_toNat, fourWords_toNat])
  | makeInstructionPacket a b c d => exact fourWords_toNat ..
  | makePcPacket pc =>
    exact (decode_makePcPacket _).trans (by simp only [Operand.word, wordArg, portU32_toNat, Except.map])
  | pktHello f => exact decode_encodeKind .hello f
  | pktHelloReply f => exact decode_encodeKind .helloReply f
  | pktRegSend0 f => exact decode_encodeKind .regSend0 f
  | pktRegSend1 f => exact decode_encodeKind .regSend1 f
  | pktRegSend2 f => exact decode_encodeKind .regSend2 f
  | pktRegSend3 f => exact decode_encodeKind .regSend3 f
  | pktInsts f => exact decode_encodeKind .insts f
  | pktInstsReply f => exact decode_encodeKind .instsReply f
  | pktTerminateReg0 f => exact decode_encodeKind .terminateReg0 f
  | pktRegStore0 f => exact decode_encodeKind .regStore0 f
  | pktRegStore1 f => exact decode_encodeKind .regStore1 f
  | pktRegStore2 f => exact decode_encodeKind .regStore2 f
  | pktRegStore3 f => exact decode_encodeKind .regStore3 f
  | pktLoadReply f => exact decode_encodeKind .loadReply f
  | pktAck f => exact decode_encodeKind .ack f
  | _ => rfl

/-! ### One spelling per selector (30_encoding.md R79, R80) -/

/-- An operand form accepts only what its instruction encodes to under a selector. -/
def OneSpelling (op : BitVec 5) (form : List Operand → Except Reject Instr) : Prop :=
  ∀ args i, form args = .ok i → encode i = .op op args

section Forms

variable {op : BitVec 5}

theorem oneSpelling_error (e : Reject) : OneSpelling op fun _ => .error e := nofun

theorem oneSpelling_noArgs {i : Instr} (hi : encode i = .op op []) : OneSpelling op (noArgs i) := by
  intro args j h
  unfold noArgs at h
  split at h <;> cases h
  exact hi

theorem oneSpelling_bytesArg {f : Bytes → Instr} (hf : ∀ b, encode (f b) = .op op [.bytes b]) :
    OneSpelling op (bytesArg f) := by
  intro args j h
  unfold bytesArg at h
  split at h <;> cases h
  exact hf _

theorem oneSpelling_packetArg {f : Packet → Instr} (hf : ∀ p, encode (f p) = .op op [.packet p]) :
    OneSpelling op (packetArg f) := by
  intro args j h
  unfold packetArg at h
  split at h <;> cases h
  exact hf _

theorem oneSpelling_intArg {f : Int → Instr} (hf : ∀ a, encode (f a) = .op op [.int a]) :
    OneSpelling op (intArg f) := by
  intro args j h
  unfold intArg at h
  split at h <;> cases h
  exact hf _

theorem oneSpelling_intIntArgs {f : Int → Int → Instr} (hf : ∀ a v, encode (f a v) = .op op [.int a, .int v]) :
    OneSpelling op (intIntArgs f) := by
  intro args j h
  unfold intIntArgs at h
  split at h <;> cases h
  exact hf _ _

theorem Except.map_eq_ok {α β ε : Type} {f : α → β} {x : Except ε α} {b : β} (h : x.map f = .ok b) :
    ∃ a, x = .ok a ∧ f a = b := by
  cases x with
  | ok a => exact ⟨a, rfl, Except.ok.inj h⟩
  | error e => cases h

theorem oneSpelling_makePcPacket : OneSpelling 0x16 (wordArg .makePcPacket) := by
  intro args j h
  unfold wordArg at h
  split at h
  · obtain ⟨w, hw, rfl⟩ := Except.map_eq_ok h
    obtain rfl := portU32_eq_ok.mp hw
    rfl
  · cases h

theorem oneSpelling_makeInstructionPacket : OneSpelling 0x15 (wordsArgs .makeInstructionPacket) := by
  intro args j h
  unfold wordsArgs at h
  split at h
  · obtain ⟨a, b, c, d, rfl, rfl, rfl, rfl, rfl⟩ := fourWords_eq_ok.mp h
    rfl
  · cases h

theorem oneSpelling_regSendArgs : OneSpelling 0x12 regSendArgs := by
  intro args j h
  unfold regSendArgs at h
  split at h
  · split at h
    · next hgroup =>
      obtain rfl := portU2_eq_ok.mp hgroup
      obtain ⟨a, b, c, d, rfl, rfl, rfl, rfl, rfl⟩ := fourWords_eq_ok.mp h
      rfl
    · cases h
  · cases h
  · cases h

theorem oneSpelling_regStoreArgs : OneSpelling 0x13 regStoreArgs := by
  intro args j h
  unfold regStoreArgs at h
  split at h
  · obtain ⟨n, hgroup, rfl⟩ := Except.map_eq_ok h
    obtain rfl := portU2_eq_ok.mp hgroup
    rfl
  · cases h
  · cases h

theorem oneSpelling_registerPacketArgs : OneSpelling 0x14 registerPacketArgs := by
  intro args j h
  unfold registerPacketArgs at h
  split at h
  · split at h
    · next hgroup =>
      obtain rfl := portU2_eq_ok.mp hgroup
      obtain ⟨a, b, c, d, rfl, rfl, rfl, rfl, rfl⟩ := fourWords_eq_ok.mp h
      rfl
    · cases h
  · cases h

end Forms

/-- Each of the 23 selectors has the spelling of its operand form; the nine reserved ones have none. -/
theorem oneSpelling_decodeOp (op : BitVec 5) : OneSpelling op (decodeOp op) := by
  obtain ⟨⟨n, hn⟩⟩ := op
  match n, hn with
  | 1, _ | 3, _ => exact oneSpelling_bytesArg fun _ => rfl
  | 2, _ | 4, _ | 5, _ | 8, _ | 9, _ | 10, _ | 11, _ => exact oneSpelling_packetArg fun _ => rfl
  | 16, _ | 17, _ | 23, _ | 28, _ | 29, _ => exact oneSpelling_noArgs rfl
  | 18, _ => exact oneSpelling_regSendArgs
  | 19, _ => exact oneSpelling_regStoreArgs
  | 20, _ => exact oneSpelling_registerPacketArgs
  | 21, _ => exact oneSpelling_makeInstructionPacket
  | 22, _ => exact oneSpelling_makePcPacket
  | 24, _ | 25, _ => exact oneSpelling_intArg fun _ => rfl
  | 26, _ | 27, _ => exact oneSpelling_intIntArgs fun _ _ => rfl
  | 0, _ | 6, _ | 7, _ | 12, _ | 13, _ | 14, _ | 15, _ | 30, _ | 31, _ =>
    exact oneSpelling_error .reservedSelector
  | n + 32, hn => exact absurd hn (by omega)

/-- Settles O53: the selectors by their operand forms, and a wire buffer of a kind by the round trip of its 20 bytes. -/
theorem encodeOfDecode : Obligations.EncodeOfDecode := by
  refine ⟨fun op args i h => oneSpelling_decodeOp op args i h, fun b i h => ?_⟩
  rw [decode_wire, Except.ok.injEq] at h
  subst h
  simp only [← unpack_messageCode_eq_iff, ne_eq]
  obtain ⟨k, hlen, hcode, h⟩ | ⟨hother, h⟩ := decodeWire_cases b
  · refine ⟨fun _ => ?_, fun hother => ?_⟩
    · rw [h, encode_toInstr, Packet.body_toPacket hcode, pack_unpack hlen]
    · exact absurd hcode (hother.resolve_left (not_not_intro hlen) k)
  · refine ⟨fun hkind => ?_, fun _ => h⟩
    obtain ⟨hlen, k, hcode⟩ := hkind
    exact absurd hcode (hother.resolve_left (not_not_intro hlen) k)

/-- Settles O54, by evaluating the decoder. -/
theorem writtenOutRequestsDecode : Obligations.WrittenOutRequestsDecode :=
  ⟨rfl, rfl, rfl, rfl, rfl, rfl, rfl, rfl, rfl⟩

end Sys2Proof
end

section
/-! SUPPORT. The packet as one 160-bit number (30_encoding.md R73). -/

namespace Sys2Proof

/-- The number `W` of a packet: its fields at the places of R73. -/
theorem packetNumber_toNat (p : Packet) :
    (packetNumber p).toNat =
      2 ^ 158 * p.version.toNat + 2 ^ 152 * p.messageCode.toNat + 2 ^ 148 * p.flags.toNat +
        2 ^ 144 * p.aSeqNum.toNat + 2 ^ 128 * p.checksum.toNat + 2 ^ 96 * p.instruction1.toNat +
        2 ^ 64 * p.instruction2.toNat + 2 ^ 32 * p.instruction3.toNat + p.instruction4.toNat := by
  simp only [packetNumber, toNat_append_eq]
  ring

theorem bytes16_length (v : BitVec 16) : (bytes16 v).length = 2 := rfl

theorem bytes32_length (v : Word) : (bytes32 v).length = 4 := rfl

/-- The bytes of a packet, read as one big-endian number, are its number `W`. -/
theorem bigEndian_pack (p : Packet) : Reference.bigEndian (pack p) = (packetNumber p).toNat := by
  simp only [pack, Reference.bigEndian_append, Reference.bigEndian_bytes16, Reference.bigEndian_bytes32,
    headerWord_toNat, packetNumber_toNat, bytes16_length, bytes32_length]
  ring

/-- The low `n` bytes of a number, most significant first. -/
def lowBytes (w : BitVec 160) (n : Nat) : Bytes := (List.range n).map fun i => w.extractLsb' (8 * (n - 1 - i)) 8

theorem numberBytes_eq_lowBytes (w : BitVec 160) : numberBytes w = lowBytes w 20 := rfl

theorem lowBytes_succ (w : BitVec 160) (n : Nat) : lowBytes w (n + 1) = w.extractLsb' (8 * n) 8 :: lowBytes w n := by
  have htail : ∀ i, n + 1 - 1 - Nat.succ i = n - 1 - i := by omega
  rw [lowBytes, List.range_succ_eq_map, List.map_cons, List.map_map]
  simp only [Function.comp_def, htail]
  rfl

theorem bigEndian_lowBytes (w : BitVec 160) (n : Nat) : Reference.bigEndian (lowBytes w n) = w.toNat % 256 ^ n := by
  induction n with
  | zero => simp [lowBytes, Reference.bigEndian, Nat.mod_one]
  | succ n ih =>
    have hlen : (lowBytes w n).length = n := by simp [lowBytes]
    have hpow : 2 ^ (8 * n) = 256 ^ n := pow_mul 2 8 n
    have hbyte : (w.extractLsb' (8 * n) 8).toNat = w.toNat / 256 ^ n % 256 := by
      rw [BitVec.extractLsb'_toNat, Nat.shiftRight_eq_div_pow, hpow]
    rw [lowBytes_succ, Reference.bigEndian, hlen, hbyte, ih, Nat.mod_pow_succ, Nat.add_comm]

theorem bigEndian_numberBytes (w : BitVec 160) : Reference.bigEndian (numberBytes w) = w.toNat := by
  rw [numberBytes_eq_lowBytes, bigEndian_lowBytes]
  exact Nat.mod_eq_of_lt w.isLt

/-- The packet read from a number's bytes has that number. -/
theorem packetNumber_unpack (w : BitVec 160) : packetNumber (unpack (numberBytes w)) = w := by
  rw [← BitVec.toNat_inj, ← bigEndian_pack, pack_unpack (numberBytes_length w), bigEndian_numberBytes]

/-- The message code of a number is at its bits 157:152. -/
theorem byteAt_numberBytes_zero (w : BitVec 160) :
    (byteAt (numberBytes w) 0).toNat % 64 = w.toNat / 2 ^ 152 % 2 ^ 6 := by
  have hbyte : byteAt (numberBytes w) 0 = w.extractLsb' 152 8 := rfl
  rw [hbyte, BitVec.extractLsb'_toNat, Nat.shiftRight_eq_div_pow]
  exact Nat.mod_mod_of_dvd _ (by decide)

/-- Settles O58: the bytes of a packet are its number, which has the fields at their places, and the packet read from a
number has that number. -/
theorem packetNumberPlacesEveryField : Obligations.PacketNumberPlacesEveryField := by
  refine ⟨fun p s => ?encode, fun w s => ?decode, fun w k => ?code⟩
  case encode =>
    exact ⟨pack p, Machine.exec_encode p s, pack_length p, (bigEndian_pack p).trans (packetNumber_toNat p)⟩
  case decode =>
    refine ⟨bigEndian_numberBytes w, unpack (numberBytes w), Machine.exec_decode_of_length (numberBytes_length w) s,
      packetNumber_unpack w, ?_⟩
    generalize hp : unpack (numberBytes w) = p
    have hw := packetNumber_toNat p
    rw [← hp, packetNumber_unpack, hp] at hw
    have hversion := p.version.isLt
    have hcode := p.messageCode.isLt
    have hflags := p.flags.isLt
    have hseq := p.aSeqNum.isLt
    have hchecksum := p.checksum.isLt
    have h1 := p.instruction1.isLt
    have h2 := p.instruction2.isLt
    have h3 := p.instruction3.isLt
    have h4 := p.instruction4.isLt
    omega
  case code =>
    rw [← byteAt_numberBytes_zero]
    exact messageCodeSelectsTheKind (numberBytes w) k (numberBytes_length w)

end Sys2Proof
end

section
/-! SUPPORT. The laws of the checksum (40_checksum.md): the bounds of the running sum, its value modulo 65535, and what
follows for the checksum of a buffer and of a packet. -/

namespace Sys2Proof.Machine

/-! ### The running sum -/

/-- One fold brings the sum of two 16-bit numbers, or of one and a high byte, to 16 bits. -/
theorem fold16_le {n : Nat} (h : n ≤ 0x1FFFE) : fold16 n ≤ 0xFFFF := by
  rw [fold16_eq]
  omega

/-- A fold moves a multiple of 65536 down, so it keeps the remainder modulo 65535. -/
theorem fold16_mod (n : Nat) : fold16 n % 65535 = n % 65535 := by
  rw [fold16_eq]
  omega

theorem fold16_eq_zero {n : Nat} : fold16 n = 0 ↔ n = 0 := by
  rw [fold16_eq]
  omega

theorem runningSum_le (b : Bytes) : ∀ sum ≤ 0xFFFF, runningSum sum b ≤ 0x1FEFF := by
  intro sum
  induction sum, b using runningSum.induct with
  | case1 sum b0 b1 rest ih =>
    intro hsum
    have hword := (be16 b0 b1).isLt
    exact ih (fold16_le (by omega))
  | case2 sum b0 =>
    intro hsum
    have hbyte := b0.isLt
    rw [runningSum, Nat.shiftLeft_eq]
    omega
  | case3 sum =>
    intro hsum
    exact hsum.trans (by decide)

/-- Settles O4: each addition starts from a folded sum, so the last one stays below the bound and its fold in 16
bits. -/
theorem runningSumFitsSeventeenBits : Obligations.RunningSumFitsSeventeenBits := by
  intro b sum hsum
  have hle := runningSum_le b sum hsum
  exact ⟨hle, fold16_le (hle.trans (by decide))⟩

/-- The folds do not change the sum of the words modulo 65535. -/
theorem runningSum_mod (sum : Nat) (b : Bytes) : runningSum sum b % 65535 = (sum + Reference.wordSum b) % 65535 := by
  induction sum, b using runningSum.induct with
  | case1 sum b0 b1 rest ih =>
    have hfold := fold16_mod (sum + (be16 b0 b1).toNat)
    rw [runningSum, ih, Nat.add_mod, hfold, ← Nat.add_mod, be16_toNat, Reference.wordSum, Nat.add_assoc]
  | case2 sum b0 => rw [runningSum, Nat.shiftLeft_eq, Reference.wordSum, Nat.mul_comm]
  | case3 sum => rfl

/-- The folds do not make a non-zero sum zero. -/
theorem runningSum_eq_zero {sum : Nat} {b : Bytes} :
    runningSum sum b = 0 ↔ sum + Reference.wordSum b = 0 := by
  induction sum, b using runningSum.induct with
  | case1 sum b0 b1 rest ih =>
    have hfold := fold16_eq_zero (n := sum + (be16 b0 b1).toNat)
    rw [be16_toNat] at hfold
    rw [runningSum, ih, be16_toNat, Reference.wordSum]
    omega
  | case2 sum b0 => rw [runningSum, Nat.shiftLeft_eq, Reference.wordSum, Nat.mul_comm]
  | case3 sum => rfl

/-! ### The checksum of a buffer -/

theorem checksumOf_toNat (b : Bytes) : (checksumOf b).toNat = 65535 - fold16 (runningSum 0 b) := by
  have hfold := fold16_le ((runningSum_le b 0 (by decide)).trans (by decide))
  rw [checksumOf_eq, BitVec.toNat_ofNat]
  omega

/-- The checksum complements the sum of the words modulo 65535. -/
theorem checksumOf_add_wordSum (b : Bytes) : ((checksumOf b).toNat + Reference.wordSum b) % 65535 = 0 := by
  have hfold := fold16_le ((runningSum_le b 0 (by decide)).trans (by decide))
  have hmod := (fold16_mod (runningSum 0 b)).trans (runningSum_mod 0 b)
  rw [checksumOf_toNat]
  omega

/-- Of 0 and 65535, which are equal modulo 65535, the checksum is the latter for an all-zero buffer only. -/
theorem checksumOf_eq_ones_iff (b : Bytes) : checksumOf b = 0xFFFF#16 ↔ Reference.wordSum b = 0 := by
  have hzero := (fold16_eq_zero (n := runningSum 0 b)).trans runningSum_eq_zero
  have hfold := fold16_le ((runningSum_le b 0 (by decide)).trans (by decide))
  rw [← BitVec.toNat_inj, checksumOf_toNat, BitVec.toNat_ofNat]
  omega

/-- Settles O2: the folds keep the sum modulo 65535 and keep it from becoming 0. -/
theorem checksumComplementsTheWordSum : Obligations.ChecksumComplementsTheWordSum := fun b s =>
  ⟨checksumOf b, exec_checksum b s, checksumOf_add_wordSum b, checksumOf_eq_ones_iff b⟩

/-- The two laws determine the checksum from the sum of the words. -/
theorem checksumOf_congr {b b' : Bytes} (h : Reference.wordSum b = Reference.wordSum b') :
    checksumOf b = checksumOf b' := by
  have hmod := checksumOf_add_wordSum b
  have hmod' := checksumOf_add_wordSum b'
  have hones := checksumOf_eq_ones_iff b
  have hones' := checksumOf_eq_ones_iff b'
  have hlt := (checksumOf b).isLt
  have hlt' := (checksumOf b').isLt
  rw [← BitVec.toNat_inj, BitVec.toNat_ofNat] at hones hones'
  rw [← BitVec.toNat_inj]
  omega

/-! ### The order of the words -/

/-- A first word adds its number. -/
theorem wordSum_bytes16_append (v : BitVec 16) (b : Bytes) :
    Reference.wordSum (bytes16 v ++ b) = v.toNat + Reference.wordSum b := by
  have hv := congrArg BitVec.toNat (Laws.Selector.be16_bytes16 v)
  rw [be16_toNat] at hv
  rw [← hv]
  rfl

theorem wordSum_flatMap_bytes16 (ws : List (BitVec 16)) :
    Reference.wordSum (ws.flatMap bytes16) = (ws.map BitVec.toNat).sum := by
  induction ws with
  | nil => rfl
  | cons w ws ih => rw [List.flatMap_cons, wordSum_bytes16_append, ih, List.map_cons, List.sum_cons]

/-- Settles O3: the sum of the words does not depend on their order, and it determines the checksum. -/
theorem checksumIgnoresWordOrder : Obligations.ChecksumIgnoresWordOrder := by
  intro ws ws' hperm s
  have hsum : Reference.wordSum (ws.flatMap bytes16) = Reference.wordSum (ws'.flatMap bytes16) := by
    rw [wordSum_flatMap_bytes16, wordSum_flatMap_bytes16]
    exact (hperm.map BitVec.toNat).sum_eq
  rw [exec_checksum, exec_checksum, checksumOf_congr hsum]

/-- Settles O5, by evaluating the twelve checksums. -/
theorem checksumCornerCases : Obligations.ChecksumCornerCases := by
  intro s
  suffices h : ∀ c : Bytes × BitVec 16, c ∈ _ → checksumOf c.1 = c.2 from fun c hc => by
    rw [exec_checksum, h c hc]
    rfl
  decide

/-! ### The checksum of a packet -/

/-- The checksum field is one of the ten words of a packet. -/
theorem wordSum_pack (p : Packet) :
    Reference.wordSum (pack p) = p.checksum.toNat + Reference.wordSum (pack { p with checksum := 0 }) := by
  simp only [pack, List.append_assoc, wordSum_bytes16_append, headerWord, BitVec.ofNat_eq_ofNat, BitVec.toNat_zero]
  omega

/-- The word sum with the checksum set is 0 modulo 65535 and not 0, so its complement is 0 and not 65535. -/
theorem checksumOf_pack_withChecksum (p : Packet) : checksumOf (pack (withChecksum p)) = 0 := by
  have hsum : Reference.wordSum (pack (withChecksum p)) =
      (packetChecksum p).toNat + Reference.wordSum (pack { p with checksum := 0 }) := wordSum_pack (withChecksum p)
  have hset := checksumOf_add_wordSum (pack { p with checksum := 0 })
  have hones := checksumOf_eq_ones_iff (pack { p with checksum := 0 })
  have hset' := checksumOf_add_wordSum (pack (withChecksum p))
  have hones' := checksumOf_eq_ones_iff (pack (withChecksum p))
  have hlt' := (checksumOf (pack (withChecksum p))).isLt
  rw [← BitVec.toNat_inj, BitVec.toNat_ofNat] at hones hones'
  rw [packetChecksum] at hsum
  rw [← BitVec.toNat_inj, BitVec.ofNat_eq_ofNat, BitVec.toNat_zero]
  omega

/-- Settles O6: the three operations one after the other. -/
theorem checksummedPacketSumsToZero : Obligations.ChecksummedPacketSumsToZero := by
  intro p s
  refine ⟨withChecksum p, pack (withChecksum p), exec_setChecksum p s, exec_encode _ s, ?_⟩
  rw [exec_checksum, checksumOf_pack_withChecksum]
  rfl

/-- Settles O13: a packet whose checksum was set verifies. -/
theorem setChecksumThenVerify : Obligations.SetChecksumThenVerify := fun p s =>
  ⟨withChecksum p, exec_setChecksum p s, exec_verifyChecksum_withChecksum p s⟩

end Sys2Proof.Machine
end

section
/-! SUPPORT. The constructors (43_constructors.md): the header of a fresh packet, `make_reg_store`'s two ends, and their
packets on the wire and under the predicates. -/

namespace Sys2Proof.Machine

/-! ### Fresh packets (43_constructors.md R120, R128) -/

/-- A constructor other than `register_packet` answers what `build` gives, or fails with FieldOverflow. -/
theorem exec_freshConstructor_cases {i : Instr} (hi : i.isFreshConstructor = true) (s : State) :
    (∃ code w1 w2 w3 w4, exec i s = finish (.packet (build code w1 w2 w3 w4)) s) ∨
      exec i s = raise .fieldOverflow s := by
  cases i with
  | makeHello => exact .inl ⟨_, _, _, _, _, exec_makeHello s⟩
  | makeHelloReply => exact .inl ⟨_, _, _, _, _, exec_makeHelloReply s⟩
  | makeRegSend i r0 r1 r2 r3 => exact .inl ⟨_, _, _, _, _, exec_makeRegSend i r0 r1 r2 r3 s⟩
  | makeRegStore i v0 v1 v2 v3 => exact (exec_makeRegStore_cases i v0 v1 v2 v3 s).imp_left fun h => ⟨_, h⟩
  | makeInstructionPacket i1 i2 i3 i4 => exact .inl ⟨_, _, _, _, _, exec_makeInstructionPacket i1 i2 i3 i4 s⟩
  | makePcPacket pc => exact .inl ⟨_, _, _, _, _, exec_makePcPacket pc s⟩
  | makeAckPacket => exact .inl ⟨_, _, _, _, _, exec_makeAckPacket s⟩
  | _ => cases hi

/-- Settles O18: `build` writes the header, and setting the checksum leaves it. -/
theorem freshPacketsHaveTheProducerHeader : Obligations.FreshPacketsHaveTheProducerHeader := by
  intro i s t p hi hexec hp
  obtain ⟨code, w1, w2, w3, w4, h⟩ | h := exec_freshConstructor_cases hi s
  · obtain rfl := finish_next.mp (h.symm.trans hexec)
    cases hp
    exact ⟨rfl, rfl, rfl⟩
  · obtain rfl := raise_next.mp (h.symm.trans hexec)
    cases hp

/-- Settles O23: the fields that stay are the receiver's, and on a receiver with a fresh header, whose old checksum has
no influence, the packet is the one of `make_reg_send`. -/
theorem registerPacketKeepsTheReceiver : Obligations.RegisterPacketKeepsTheReceiver := by
  intro q n r0 r1 r2 r3 s
  refine ⟨⟨_, exec_registerPacket q n r0 r1 r2 r3 s, rfl, rfl, rfl⟩, fun hversion hseq => ?_⟩
  rw [exec_registerPacket, exec_makeRegSend, hversion, hseq]
  rfl

/-! ### `make_reg_store` (43_constructors.md R125 to R127, decision D8) -/

theorem exists_word_of_wordValue {x : Int} (h : WordValue x) : ∃ w : Word, (w.toNat : Int) = x :=
  ⟨BitVec.ofNat 32 x.toNat, by rw [toNat_ofNat_of_wordValue h]; omega⟩

/-- `make_reg_store` when its four values convert to words. -/
theorem exec_makeRegStore_of_wordValue (i : BitVec 2) {v0 v1 v2 v3 : Int}
    (h : ∀ v ∈ [v0, v1, v2, v3], WordValue (regstoreConvert v)) (s : State) :
    ∃ w0 w1 w2 w3 : Word,
      exec (.makeRegStore i v0 v1 v2 v3) s = finish (.packet (build (regStoreCode i) w0 w1 w2 w3)) s ∧
        (w0.toNat : Int) = regstoreConvert v0 ∧ (w1.toNat : Int) = regstoreConvert v1 ∧
        (w2.toNat : Int) = regstoreConvert v2 ∧ (w3.toNat : Int) = regstoreConvert v3 := by
  obtain ⟨w0, hw0⟩ := exists_word_of_wordValue (h v0 (by simp))
  obtain ⟨w1, hw1⟩ := exists_word_of_wordValue (h v1 (by simp))
  obtain ⟨w2, hw2⟩ := exists_word_of_wordValue (h v2 (by simp))
  obtain ⟨w3, hw3⟩ := exists_word_of_wordValue (h v3 (by simp))
  exact ⟨w0, w1, w2, w3, exec_makeRegStore_of_placed i (placeRegister_of_toNat_eq hw0) (placeRegister_of_toNat_eq hw1)
    (placeRegister_of_toNat_eq hw2) (placeRegister_of_toNat_eq hw3) s, hw0, hw1, hw2, hw3⟩

/-- `make_reg_store` fails when a value does not convert to a word. -/
theorem exec_makeRegStore_of_not_wordValue (i : BitVec 2) {v0 v1 v2 v3 : Int}
    (h : ¬∀ v ∈ [v0, v1, v2, v3], WordValue (regstoreConvert v)) (s : State) :
    exec (.makeRegStore i v0 v1 v2 v3) s = raise .fieldOverflow s := by
  rw [exec_makeRegStore, execMakeRegStore]
  split
  · next h0 h1 h2 h3 =>
    refine absurd ?_ h
    simp only [List.forall_mem_cons, List.not_mem_nil, false_imp_iff, forall_const, and_true]
    exact ⟨(placeRegister_fault.mp h0).1, (placeRegister_fault.mp h1).1, (placeRegister_fault.mp h2).1,
      (placeRegister_fault.mp h3).1⟩
  · rfl

/-- Settles O21: the four values are placed when each converts to a word, and one that does not makes the call fail. -/
theorem makeRegStoreOutcome : Obligations.MakeRegStoreOutcome := by
  intro i v0 v1 v2 v3 s
  split
  · next hfit =>
    obtain ⟨w0, w1, w2, w3, hexec, hw0, hw1, hw2, hw3⟩ := exec_makeRegStore_of_wordValue i hfit s
    refine ⟨_, hexec, ?_⟩
    simp only [List.map_cons, List.map_nil, ← hw0, ← hw1, ← hw2, ← hw3]
    rfl
  · next hfit => exact exec_makeRegStore_of_not_wordValue i hfit s

/-- Inside the operand domain -1 is the one value whose conversion, `2^32`, does not fit a word. -/
theorem wordValue_regstoreConvert_iff {v : Int} (h : regStoreValueOk v = true) :
    WordValue (regstoreConvert v) ↔ v ≠ -1 := by
  rw [regStoreValueOk, decide_eq_true_iff] at h
  unfold regstoreConvert
  split <;> omega

theorem exec_makeRegStore_eq_fieldOverflow_iff (i : BitVec 2) (v0 v1 v2 v3 : Int) (s : State) :
    exec (.makeRegStore i v0 v1 v2 v3) s = .next { s with outcome := some (.error .fieldOverflow) } ↔
      ¬∀ v ∈ [v0, v1, v2, v3], WordValue (regstoreConvert v) := by
  refine ⟨fun h hfit => ?_, fun hfit => exec_makeRegStore_of_not_wordValue i hfit s⟩
  obtain ⟨w0, w1, w2, w3, hexec, -⟩ := exec_makeRegStore_of_wordValue i hfit s
  rw [hexec, finish, next_setOutcome_inj] at h
  cases h

/-- Settles O22: `make_reg_store` fails exactly when one of its values does not convert to a word. -/
theorem fieldOverflowExactlyOnMinusOne : Obligations.FieldOverflowExactlyOnMinusOne := by
  intro i v0 v1 v2 v3 s hwf
  have hok : ∀ v ∈ [v0, v1, v2, v3], regStoreValueOk v = true := by
    simpa [Instr.wf, and_assoc] using hwf
  have hfit : (∀ v ∈ [v0, v1, v2, v3], WordValue (regstoreConvert v)) ↔ -1 ∉ [v0, v1, v2, v3] :=
    (forall₂_congr fun v hv => wordValue_regstoreConvert_iff (hok v hv)).trans List.forall_mem_ne'
  rw [exec_makeRegStore_eq_fieldOverflow_iff, hfit, not_not]

/-! ### Constructed packets on the wire and under the predicates -/

/-- Settles O24: a constructor's packet had its checksum set, `decode` undoes `encode` and the packet verifies. -/
theorem constructedPacketsSurviveTheWire : Obligations.ConstructedPacketsSurviveTheWire := by
  intro i s t p hi hexec hp u
  obtain ⟨q, h⟩ | h := exec_constructor_cases hi s
  · obtain rfl := finish_next.mp (h.symm.trans hexec)
    cases hp
    exact ⟨_, exec_encode _ u, exec_decode_pack _ u, exec_verifyChecksum_withChecksum q u⟩
  · obtain rfl := raise_next.mp (h.symm.trans hexec)
    cases hp

/-- Settles O20, by evaluating the three packets and their bytes. -/
theorem constantPacketsAreAsPrinted : Obligations.ConstantPacketsAreAsPrinted := fun _ =>
  ⟨⟨rfl, rfl⟩, ⟨rfl, rfl⟩, ⟨rfl, rfl⟩⟩

/-- Settles O15: 9 is odd, so the second conjunct of `has_pc` follows from the first. -/
theorem hasPcReducesToCodeNine : Obligations.HasPcReducesToCodeNine := by
  intro p s
  have hodd : ∀ code : BitVec 6,
      (decide (code = MessageCode.instsReply.value) && code.getLsbD 0) = decide (code = 9#6) := by decide
  rw [exec_hasPc, hodd]
  rfl

/-- A built packet answers the four predicates by its code and its first word. -/
theorem exec_predicates_build (code : BitVec 6) (w1 w2 w3 w4 : Word) (s : State) :
    exec (.hasPc (build code w1 w2 w3 w4)) s =
        finish (.bool (decide (code = MessageCode.instsReply.value) && code.getLsbD 0)) s ∧
      exec (.hasAck (build code w1 w2 w3 w4)) s = finish (.bool (ackBit w1)) s ∧
      exec (.hasStore (build code w1 w2 w3 w4)) s = finish (.bool (storeBit w1)) s ∧
      exec (.isHello (build code w1 w2 w3 w4)) s = finish (.bool (decide (code = MessageCode.hello.value))) s :=
  ⟨rfl, rfl, rfl, rfl⟩

/-- Settles O25: the code and the first word are 9 and 1 in a PC packet and 31 and 0 in the ACK packet. -/
theorem pcPacketHasAckAndAckPacketHasNot : Obligations.PcPacketHasAckAndAckPacketHasNot := by
  refine fun s => ⟨fun pc => ⟨_, exec_makePcPacket pc s, ?pc⟩, ⟨_, exec_makeAckPacket s, ?ack⟩⟩
  case pc =>
    obtain ⟨hpc, hack, hstore, -⟩ := exec_predicates_build MessageCode.instsReply.value 1 0 0 pc s
    exact ⟨hpc, hack, hstore⟩
  case ack =>
    obtain ⟨hpc, hack, hstore, hhello⟩ := exec_predicates_build MessageCode.ack.value 0 0 0 0 s
    exact ⟨hack, hstore, hpc, hhello⟩

end Sys2Proof.Machine
end

section
/-! SUPPORT. What a store leaves for a later read (20_memory.md section 2). -/

namespace Sys2Proof.Machine

/-- A store that ends with a result was allowed, its value fitted, and the buffer is the new one. -/
theorem checkedStore_ok {s t : State} {addr n : Int} {fits : Prop} [Decidable fits] {m : Memory}
    (h : checkedStore s addr n fits m = .next t) (hok : t.outcome = some (.ok .unit)) :
    s.InRange addr n ∧ fits ∧ t = (s.setBytes m).setOutcome (.ok .unit) := by
  obtain ⟨-, h'⟩ | ⟨-, -, h'⟩ | ⟨⟨hrange, -⟩, hfits, h'⟩ := checkedStore_cases s addr n fits m
  · cases h'.symm.trans h
    cases hok
  · cases h'.symm.trans h
    cases hok
  · exact ⟨hrange, hfits, (Host.Outcome.next.inj (h'.symm.trans h)).symm⟩

theorem exec_getByte_of_inRange {s : State} {addr : Int} (h : s.InRange addr 1) :
    exec (.getByte addr) s = finish (.u8 (s.bytes.read addr.toNat)) s := by
  rw [exec_getByte, readResponse_of_inRange _ h, finish]

theorem exec_getWord_of_inRange {s : State} {addr : Int} (h : s.InRange addr 4) :
    exec (.getWord addr) s = finish (.u32 (s.bytes.readWord addr.toNat)) s := by
  rw [exec_getWord, readResponse_of_inRange _ h, finish]

/-- A word read after it was written is the word: its four bytes are read in the order they were written. -/
theorem Memory.readWord_writeWord (m : Memory) (a : Nat) (v : Word) : (m.writeWord a v).readWord a = v := by
  have hread : ∀ j < 4, (m.writeWord a v).read (a + j) = byteAt (bytes32 v) j :=
    fun j hj => Memory.read_writeBytes (bytes32 v) m a j hj
  have h0 := hread 0 (by decide)
  rw [Nat.add_zero] at h0
  rw [Memory.readWord, h0, hread 1 (by decide), hread 2 (by decide), hread 3 (by decide)]
  exact be32_bytes32 v

/-- What a successful `store_word` leaves: the bytes of the value in its four cells, which are the value as a word. -/
theorem storeWord_ok {s t : State} {addr value : Int} (hexec : exec (.storeWord addr value) s = .next t)
    (hok : t.outcome = some (.ok .unit)) :
    t.InRange addr 4 ∧ WordValue value ∧
      (∀ j < 4, t.bytes.read (addr.toNat + j) = Reference.byteOfWord value.toNat j) ∧
      t.bytes.readWord addr.toNat = BitVec.ofNat 32 value.toNat := by
  obtain ⟨hrange, hvalue, rfl⟩ := checkedStore_ok ((exec_storeWord addr value s).symm.trans hexec) hok
  refine ⟨hrange, hvalue, fun j hj => ?_, Memory.readWord_writeWord ..⟩
  rw [State.setOutcome_bytes, State.setBytes_bytes, Memory.read_writeWord _ _ _ hj, toNat_ofNat_of_wordValue hvalue]

/-- Settles O33: the four cells hold the value's bytes, and the word read from them is the value. -/
theorem storedWordReadsBack : Obligations.StoredWordReadsBack := by
  intro addr value s t hexec hok
  obtain ⟨⟨haddr, hend⟩, ⟨hvalue, -⟩, hcells, hword⟩ := storeWord_ok hexec hok
  refine ⟨fun j hj => ?byte, ?word⟩
  case byte =>
    have hcell : (addr + j).toNat = addr.toNat + j := by omega
    rw [exec_getByte_of_inRange ⟨by omega, by omega⟩, hcell, hcells j hj]
    rfl
  case word =>
    have hofInt : BitVec.ofNat 32 value.toNat = BitVec.ofInt 32 value := by
      rw [← BitVec.ofInt_natCast, Int.toNat_of_nonneg hvalue]
    rw [exec_getWord_of_inRange ⟨haddr, hend⟩, hword, hofInt]
    rfl

/-- What a successful `store_byte` leaves: the value in its cell, and every other cell and the size as they were. -/
theorem storeByte_ok {s t : State} {addr value : Int} (hexec : exec (.storeByte addr value) s = .next t)
    (hok : t.outcome = some (.ok .unit)) :
    s.InRange addr 1 ∧ t.size = s.size ∧ ((t.bytes.read addr.toNat).toNat : Int) = value ∧
      ∀ a, a ≠ addr.toNat → t.bytes.read a = s.bytes.read a := by
  obtain ⟨hrange, hvalue, rfl⟩ := checkedStore_ok ((exec_storeByte addr value s).symm.trans hexec) hok
  refine ⟨hrange, rfl, ?_, fun a ha => Memory.read_write_other _ _ ha⟩
  rw [State.setOutcome_bytes, State.setBytes_bytes, Memory.read_write_same, toNat_ofNat_of_byteValue hvalue]

/-- Settles O34: each of the four cells holds its byte still after the later stores. -/
theorem storedBytesReadAsWord : Obligations.StoredBytesReadAsWord := by
  intro addr b0 b1 b2 b3 s s0 s1 s2 t h0 hok0 h1 hok1 h2 hok2 h3 hok3
  obtain ⟨⟨haddr, -⟩, hsize0, hread0, -⟩ := storeByte_ok h0 hok0
  obtain ⟨-, hsize1, hread1, hother1⟩ := storeByte_ok h1 hok1
  obtain ⟨-, hsize2, hread2, hother2⟩ := storeByte_ok h2 hok2
  obtain ⟨⟨-, hend⟩, hsize3, hread3, hother3⟩ := storeByte_ok h3 hok3
  have hrange : t.InRange addr 4 := ⟨haddr, by omega⟩
  have e1 : (addr + 1).toNat = addr.toNat + 1 := by omega
  have e2 : (addr + 2).toNat = addr.toNat + 2 := by omega
  have e3 : (addr + 3).toNat = addr.toNat + 3 := by omega
  rw [e1] at hread1 hother1
  rw [e2] at hread2 hother2
  rw [e3] at hread3 hother3
  refine ⟨_, exec_getWord_of_inRange hrange, ?_⟩
  rw [Memory.readWord, be32_toNat, Reference.be32Value, hother3 _ (by omega), hother2 _ (by omega),
    hother1 _ (by omega), hother3 _ (by omega), hother2 _ (by omega), hother3 _ (by omega)]
  omega

end Sys2Proof.Machine
end

section
/-! SUPPORT. `dump` (44_memory_ops.md R145, decision D14): one cell joined in front of a list of runs, by which both the
walk over all addresses and the grouping of the listed cells proceed. -/

namespace Sys2Proof.Machine

/-! ### One cell in front -/

/-- A non-zero cell joins the first run where that starts right after it, and else starts a run of its own. -/
def joinCell (a : Nat) (v : Byte) : List (Nat × Bytes) → List (Nat × Bytes)
  | (start, bs) :: tail => if start = a + 1 then (a, v :: bs) :: tail else (a, [v]) :: (start, bs) :: tail
  | [] => [(a, [v])]

theorem Memory.runs_succ (m : Memory) (n a : Nat) :
    m.runs (n + 1) a = if m.read a = 0 then m.runs n (a + 1) else joinCell a (m.read a) (m.runs n (a + 1)) := by
  rw [Memory.runs]
  cases m.runs n (a + 1) <;> rfl

theorem cellRuns_cons (a : Nat) (v : Byte) (m : Memory) :
    Reference.cellRuns ((a, v) :: m) = joinCell a v (Reference.cellRuns m) := by
  rw [Reference.cellRuns]
  cases Reference.cellRuns m <;> rfl

theorem joinCell_cases (a : Nat) (v : Byte) (l : List (Nat × Bytes)) :
    (∃ bs tail, l = (a + 1, bs) :: tail ∧ joinCell a v l = (a, v :: bs) :: tail) ∨
      ((∀ run ∈ l.head?, run.1 ≠ a + 1) ∧ joinCell a v l = (a, [v]) :: l) := by
  cases l with
  | nil => exact .inr ⟨by simp, rfl⟩
  | cons run tail =>
    obtain ⟨start, bs⟩ := run
    by_cases hstart : start = a + 1
    · subst hstart
      exact .inl ⟨bs, tail, rfl, if_pos rfl⟩
    · exact .inr ⟨by simpa using hstart, if_neg hstart⟩

/-! ### The walk over a window of addresses finds its maximal runs -/

/-- `Reference.IsMaximalRun` inside the addresses from `lo` up to `hi`. -/
structure MaximalRunIn (m : Memory) (lo hi : Nat) (run : Nat × Bytes) : Prop where
  nonempty : run.2 ≠ []
  lower : lo ≤ run.1
  upper : run.1 + run.2.length ≤ hi
  cells : ∀ j < run.2.length, byteAt run.2 j = m.read (run.1 + j) ∧ byteAt run.2 j ≠ 0
  before : ∀ p, lo ≤ p → p + 1 = run.1 → m.read p = 0
  after : run.1 + run.2.length < hi → m.read (run.1 + run.2.length) = 0

/-- `Reference.IsRunList` for the addresses from `lo` up to `hi`. -/
structure RunListIn (m : Memory) (lo hi : Nat) (l : List (Nat × Bytes)) : Prop where
  maximal : ∀ run ∈ l, MaximalRunIn m lo hi run
  covers : ∀ a, lo ≤ a → a < hi → m.read a ≠ 0 → ∃ run ∈ l, run.1 ≤ a ∧ a < run.1 + run.2.length
  apart : l.Pairwise fun x y => x.1 + x.2.length < y.1

/-- The window from address 0 is the whole buffer. -/
theorem RunListIn.isRunList {m : Memory} {size : Nat} {l : List (Nat × Bytes)} (h : RunListIn m 0 size l) :
    Reference.IsRunList m size l := by
  refine ⟨fun run hrun => ?_, fun a => h.covers a (Nat.zero_le a), h.apart⟩
  have hmax := h.maximal run hrun
  exact ⟨hmax.nonempty, hmax.upper, hmax.cells, fun p => hmax.before p (Nat.zero_le p), hmax.after⟩

theorem runListIn_nil (m : Memory) (a : Nat) : RunListIn m a a [] :=
  ⟨nofun, fun _ hlo hhi => absurd hhi (by omega), .nil⟩

section Window

variable {m : Memory} {a hi : Nat} {run : Nat × Bytes} {l tail : List (Nat × Bytes)}

/-- A run stays maximal in the window one address lower, if it cannot be extended to that address. -/
theorem MaximalRunIn.lower_window (h : MaximalRunIn m (a + 1) hi run) (hstart : run.1 = a + 1 → m.read a = 0) :
    MaximalRunIn m a hi run where
  nonempty := h.nonempty
  lower := by have := h.lower; omega
  upper := h.upper
  cells := h.cells
  before p hp hpred := by
    by_cases hpa : p = a
    · rw [hpa]
      exact hstart (by omega)
    · exact h.before p (by omega) hpred
  after := h.after

/-- The runs after the first one lie above its end. -/
theorem RunListIn.tail_above {lo : Nat} (h : RunListIn m lo hi (run :: tail)) {y : Nat × Bytes} (hy : y ∈ tail) :
    lo + 1 < y.1 := by
  have hrun := h.maximal run (List.mem_cons_self ..)
  have hlen := List.length_pos_iff.mpr hrun.nonempty
  have hlower := hrun.lower
  have hapart := (List.pairwise_cons.mp h.apart).1 y hy
  omega

/-- A zero cell below the window belongs to no run. -/
theorem RunListIn.zero_below (h : RunListIn m (a + 1) hi l) (hzero : m.read a = 0) : RunListIn m a hi l where
  maximal run hrun := (h.maximal run hrun).lower_window fun _ => hzero
  covers b hb hbhi hread := by
    have hba : b ≠ a := fun e => hread (e ▸ hzero)
    exact h.covers b (by omega) hbhi hread
  apart := h.apart

/-- The end of a run that a cell is put in front of stays. -/
theorem end_cons (a : Nat) (v : Byte) (bs : Bytes) : a + (v :: bs).length = a + 1 + bs.length := by
  rw [List.length_cons]
  omega

/-- A non-zero cell below the window, right before its first run, extends that run. -/
theorem RunListIn.extend_first {bs : Bytes} (h : RunListIn m (a + 1) hi ((a + 1, bs) :: tail)) (hne : m.read a ≠ 0) :
    RunListIn m a hi ((a, m.read a :: bs) :: tail) where
  maximal run hrun := by
    obtain rfl | hrun := List.mem_cons.mp hrun
    · have hfirst := h.maximal _ (List.mem_cons_self ..)
      have hend := end_cons a (m.read a) bs
      refine ⟨List.cons_ne_nil _ _, le_rfl, hend.trans_le hfirst.upper, fun j hj => ?_, fun p _ hpred => ?_, ?_⟩
      · cases j with
        | zero => exact ⟨rfl, hne⟩
        | succ j =>
          have hcell := hfirst.cells j (Nat.lt_of_succ_lt_succ hj)
          rwa [Nat.add_right_comm] at hcell
      · simp only at hpred
        omega
      · simp only [hend]
        exact hfirst.after
    · have habove := h.tail_above hrun
      exact (h.maximal run (List.mem_cons_of_mem _ hrun)).lower_window fun e => by omega
  covers b hb hbhi hread := by
    by_cases hba : b = a
    · exact ⟨_, List.mem_cons_self .., hba.ge, by rw [List.length_cons]; omega⟩
    · obtain ⟨run, hrun, hlo, hup⟩ := h.covers b (by omega) hbhi hread
      obtain rfl | hrun := List.mem_cons.mp hrun
      · exact ⟨_, List.mem_cons_self .., hb, hup.trans_eq (end_cons ..).symm⟩
      · exact ⟨run, List.mem_cons_of_mem _ hrun, hlo, hup⟩
  apart := by
    obtain ⟨hfirst, htail⟩ := List.pairwise_cons.mp h.apart
    exact List.pairwise_cons.mpr ⟨fun y hy => (end_cons ..).trans_lt (hfirst y hy), htail⟩

/-- Runs that do not begin at the window's first address all begin above it. -/
theorem RunListIn.start_above (h : RunListIn m a hi l) (hhead : ∀ run ∈ l.head?, run.1 ≠ a) (hrun : run ∈ l) :
    a < run.1 := by
  cases l with
  | nil => cases hrun
  | cons first tail =>
    obtain rfl | hrun := List.mem_cons.mp hrun
    · exact lt_of_le_of_ne (h.maximal _ (List.mem_cons_self ..)).lower (hhead _ rfl).symm
    · exact (Nat.lt_succ_self a).trans (h.tail_above hrun)

/-- A non-zero cell below the window with no run right after it is a run of its own. -/
theorem RunListIn.new_first (h : RunListIn m (a + 1) hi l) (hne : m.read a ≠ 0) (hhi : a < hi)
    (hhead : ∀ run ∈ l.head?, run.1 ≠ a + 1) : RunListIn m a hi ((a, [m.read a]) :: l) where
  maximal run hrun := by
    obtain rfl | hrun := List.mem_cons.mp hrun
    · refine ⟨List.cons_ne_nil _ _, le_rfl, hhi, fun j hj => ?_, fun p hp hpred => ?_, fun hend => ?_⟩
      · obtain rfl : j = 0 := Nat.lt_one_iff.mp hj
        exact ⟨rfl, hne⟩
      · exact absurd hpred (by simp only; omega)
      · by_contra hread
        obtain ⟨run, hrun, hlo, -⟩ := h.covers (a + 1) le_rfl hend hread
        exact absurd hlo (h.start_above hhead hrun).not_ge
    · have habove := h.start_above hhead hrun
      exact (h.maximal run hrun).lower_window fun e => absurd e habove.ne'
  covers b hb hbhi hread := by
    by_cases hba : b = a
    · exact ⟨_, List.mem_cons_self .., hba.ge, Nat.lt_succ_of_le hba.le⟩
    · obtain ⟨run, hrun, hcover⟩ := h.covers b (by omega) hbhi hread
      exact ⟨run, List.mem_cons_of_mem _ hrun, hcover⟩
  apart := List.pairwise_cons.mpr ⟨fun _ hy => h.start_above hhead hy, h.apart⟩

end Window

theorem runListIn_runs (m : Memory) (n a : Nat) : RunListIn m a (a + n) (m.runs n a) := by
  induction n generalizing a with
  | zero => exact runListIn_nil m a
  | succ n ih =>
    have hrest : RunListIn m (a + 1) (a + (n + 1)) (m.runs n (a + 1)) := by
      rw [← Nat.add_assoc, Nat.add_right_comm]
      exact ih (a + 1)
    rw [Memory.runs_succ]
    split
    · next hzero => exact hrest.zero_below hzero
    · next hne =>
      obtain ⟨bs, tail, hl, hjoin⟩ | ⟨hhead, hjoin⟩ := joinCell_cases a (m.read a) (m.runs n (a + 1))
      · rw [hl] at hrest
        rw [hjoin]
        exact hrest.extend_first hne
      · rw [hjoin]
        exact hrest.new_first hne (by omega) hhead

/-- Settles O31: the walk over all addresses is the walk over the window from 0 up to the size. -/
theorem dumpReportsTheMaximalRuns : Obligations.DumpReportsTheMaximalRuns := by
  intro s
  have hruns := runListIn_runs s.bytes s.size 0
  rw [Nat.zero_add] at hruns
  exact ⟨_, exec_dump s, hruns.isRunList⟩

/-! ### Grouping the listed cells gives the same runs -/

/-- A canonical buffer reads 0 below its first address. -/
theorem Memory.read_of_lt {m : Memory} {lo b : Nat} (hwf : Memory.wfFrom lo m = true) (hb : b < lo) : m.read b = 0 := by
  induction m generalizing lo with
  | nil => rfl
  | cons c m ih =>
    obtain ⟨k, v⟩ := c
    obtain ⟨hle, -, hrest⟩ := (Memory.wfFrom_cons lo k v m).mp hwf
    rw [Memory.read_cons, if_neg (by omega)]
    exact ih hrest (by omega)

/-- The walk reads no cell below its start. -/
theorem Memory.runs_congr {m m' : Memory} {n a : Nat} (h : ∀ b, a ≤ b → m.read b = m'.read b) :
    m.runs n a = m'.runs n a := by
  induction n generalizing a with
  | zero => rfl
  | succ n ih => rw [Memory.runs_succ, Memory.runs_succ, h a le_rfl, ih fun b hb => h b (by omega)]

/-- The walk over a window that holds all cells of a canonical buffer skips the zero cells between them. -/
theorem runs_eq_cellRuns {m : Memory} {n a : Nat} (hwf : Memory.wfFrom a m = true) (hcells : ∀ c ∈ m, c.1 < a + n) :
    m.runs n a = Reference.cellRuns m := by
  induction n generalizing m a with
  | zero =>
    cases m with
    | nil => rfl
    | cons c m =>
      obtain ⟨hle, -, -⟩ := (Memory.wfFrom_cons a c.1 c.2 m).mp hwf
      exact absurd hle (hcells c (List.mem_cons_self ..)).not_ge
  | succ n ih =>
    rw [Memory.runs_succ]
    cases m with
    | nil => exact ih rfl nofun
    | cons c m =>
      obtain ⟨k, v⟩ := c
      obtain ⟨hle, hv, hrest⟩ := (Memory.wfFrom_cons a k v m).mp hwf
      by_cases hk : k = a
      · subst hk
        have hread : Memory.read ((k, v) :: m) k = v := if_pos rfl
        have hskip : Memory.runs ((k, v) :: m) n (k + 1) = Memory.runs m n (k + 1) :=
          Memory.runs_congr fun b hb => if_neg (by omega)
        rw [hread, if_neg hv, hskip, cellRuns_cons, ih hrest fun c hc => ?_]
        have := hcells c (List.mem_cons_of_mem _ hc)
        omega
      · have hwf' : Memory.wfFrom (a + 1) ((k, v) :: m) = true :=
          (Memory.wfFrom_cons ..).mpr ⟨by omega, hv, hrest⟩
        rw [if_pos (Memory.read_of_lt hwf' (Nat.lt_succ_self a))]
        exact ih hwf' fun c hc => by have := hcells c hc; omega

/-- Settles O32: the invariant puts all listed cells, rising, into the window that `dump` walks over. -/
theorem dumpGroupsTheListedCells : Obligations.DumpGroupsTheListedCells := by
  intro s hs
  obtain ⟨-, hwf, hcells⟩ := hs
  rw [exec_dump, runs_eq_cellRuns hwf fun c hc => (hcells c hc).trans_eq (Nat.zero_add _).symm]
  rfl

end Sys2Proof.Machine
end

section
/-! SUPPORT. Creation and reset (70_reset_and_hazards.md), the step on a presented request, refused requests
(60_exceptions.md R185), and the packet kinds (45_message_codes.md). -/

namespace Sys2Proof.Machine

/-! ### Creation (10_state.md section 6) -/

/-- Settles O46: legal parameters put the bound below the size, and no cell is listed. -/
theorem creationMeetsTheInvariant : Obligations.CreationMeetsTheInvariant := by
  refine ⟨fun memSize readBound t h => ?_, ⟨by decide, rfl, nofun⟩, rfl⟩
  obtain ⟨hbound, hsize, rfl⟩ := create_next h
  exact ⟨by simp only; omega, rfl, nofun⟩

/-- Settles O47: the legal parameters are natural numbers, and the empty buffer reads 0. -/
theorem stateAfterReset : Obligations.StateAfterReset := by
  intro memSize readBound hbound hsize
  exact ⟨_, if_pos ⟨hbound, hsize⟩, Int.toNat_of_nonneg (by omega), Int.toNat_of_nonneg hbound, rfl, Memory.read_nil,
    rfl, rfl⟩

/-- Settles O48: the condition is the complement of the creation's check. -/
theorem illegalCreationIsRefused : Obligations.IllegalCreationIsRefused := fun _ _ h => if_neg (by omega)

/-! ### The step on a presented request -/

/-- Settles O49: fetching takes the first request, and the decoded instruction is performed. -/
theorem stepRunsThePresentedOperation : Obligations.StepRunsThePresentedOperation := by
  intro s r rest i hrequests hdecode
  have hfetch : s.fetch? = some (r, s.setRequests rest) := State.fetch?_eq_some.mpr ⟨rest, hrequests, rfl⟩
  rw [step, hfetch]
  simp only [hdecode]
  rfl

/-- Settles O50: fetching gives nothing. -/
theorem stepWithoutRequestHolds : Obligations.StepWithoutRequestHolds := by
  intro s hrequests
  rw [step, State.fetch?_eq_none.mpr hrequests]

/-! ### Refused requests (30_encoding.md R80, R81) -/

/-- A register group outside `0..3` or a list that is not four long (decision D10). -/
abbrev BadGroup (index : Int) (regs : List Int) : Prop := index < 0 ∨ index > 3 ∨ regs.length ≠ 4

theorem regSendArgs_of_badGroup {index : Int} {regs : List Int} (h : BadGroup index regs) :
    regSendArgs [.int index, .ints regs] = .error .registerGroup := by
  unfold regSendArgs
  split
  · next heq =>
    cases heq
    rw [portU2_eq_error (by simpa [BadGroup] using h)]
  · rfl
  · next hother => exact absurd rfl (hother _ _)

theorem regStoreArgs_of_badGroup {index : Int} {regs : List Int} (h : BadGroup index regs) :
    regStoreArgs [.int index, .ints regs] = .error .registerGroup := by
  unfold regStoreArgs
  split
  · next heq =>
    cases heq
    rw [portU2_eq_error (by simpa [BadGroup] using h)]
    rfl
  · rfl
  · next hother => exact absurd rfl (hother _ _)

/-- A verbatim word outside `0 .. 2^32 - 1` (decision D9). -/
abbrev BadWord (r : Int) : Prop := r < 0 ∨ r > 4294967295

theorem regSendArgs_of_badWord {index : Int} {regs : List Int} (h : ∃ r ∈ regs, BadWord r) :
    ∃ e, regSendArgs [.int index, .ints regs] = .error e := by
  unfold regSendArgs
  split
  · next heq =>
    cases heq
    split
    · exact ⟨_, fourWords_eq_error h⟩
    · exact ⟨_, rfl⟩
  · exact ⟨_, rfl⟩
  · exact ⟨_, rfl⟩

theorem registerPacketArgs_of_bad {p : Packet} {regno r0 r1 r2 r3 : Int}
    (h : regno < 0 ∨ regno > 3 ∨ ∃ r ∈ [r0, r1, r2, r3], BadWord r) :
    ∃ e, registerPacketArgs [.packet p, .int regno, .int r0, .int r1, .int r2, .int r3] = .error e := by
  simp only [registerPacketArgs]
  split
  · next n hport =>
    have hregno := portU2_eq_ok.mp hport
    have hlt := n.isLt
    have hword := (h.resolve_left (by omega)).resolve_left (by omega)
    exact ⟨_, fourWords_eq_error hword⟩
  · exact ⟨_, rfl⟩

theorem decode_reserved {op : BitVec 5} (args : List Operand)
    (h : op ∈ [0x00#5, 0x06#5, 0x07#5, 0x0C#5, 0x0D#5, 0x0E#5, 0x0F#5, 0x1E#5, 0x1F#5]) :
    decode (.op op args) = .error .reservedSelector := by
  simp only [List.mem_cons, List.not_mem_nil, or_false] at h
  rcases h with rfl | rfl | rfl | rfl | rfl | rfl | rfl | rfl | rfl <;> rfl

/-- Settles O51: each request decodes to an error. -/
theorem illegalRequestsAreRefused : Obligations.IllegalRequestsAreRefused := by
  refine ⟨fun op args s h => ?reserved, fun op index regs s hop h => ?group, fun index regs s h => ?regSend,
    fun p regno r0 r1 r2 r3 s h => ?registerPacket, fun r0 r1 r2 r3 s h => ?insts, fun pc s h => ?pc⟩
  case reserved => exact step_present_error (decode_reserved args h)
  case group =>
    obtain rfl | rfl := hop
    · exact step_present_error ((decode_makeRegSend _).trans (regSendArgs_of_badGroup h))
    · exact step_present_error ((decode_makeRegStore _).trans (regStoreArgs_of_badGroup h))
  case regSend =>
    obtain ⟨e, he⟩ := regSendArgs_of_badWord h
    exact step_present_error ((decode_makeRegSend _).trans he)
  case registerPacket =>
    obtain ⟨e, he⟩ := registerPacketArgs_of_bad h
    exact step_present_error ((decode_registerPacket _).trans he)
  case insts => exact step_present_error ((decode_makeInstructionPacket _).trans (fourWords_eq_error h))
  case pc =>
    have hport : wordArg .makePcPacket [.int pc] = .error .wordRange := by
      rw [wordArg, portU32_eq_error h]
      rfl
    exact step_present_error ((decode_makePcPacket _).trans hport)

/-! ### Packet kinds (45_message_codes.md R160 to R175) -/

/-- Settles O55: `receive` of each kind, with the kind's code. -/
theorem packetKindsAnswerTheirPacket : Obligations.PacketKindsAnswerTheirPacket := by
  intro v f q c w1 w2 w3 w4 s
  exact ⟨rfl, rfl, rfl, rfl, rfl, rfl, rfl, rfl, rfl, rfl, rfl, rfl, rfl, rfl, rfl⟩

end Sys2Proof.Machine
end
